-- ==== Sys2Proof/Word.lean ====
section
/-! DEFINITION. The words of the codec core: bytes and byte arrays. Notation of 00_scope.md R12. -/

namespace Sys2Proof

/-- A byte: bit 7 has weight 128, bit 0 has weight 1 (00_scope.md R12). -/
abbrev Byte := BitVec 8

/-- A byte-array register of `n` bytes, entry 0 first (10_state.md R41). -/
abbrev Bytes (n : Nat) := Vector Byte n

end Sys2Proof
end

