-- ==== Sys2Proof/Config.lean ====
section
/-! DEFINITION. What is fixed for an instance of the core: the wire-format profile (00_scope.md R7,
10_state.md R40), the platform's native width, and the free values the spec leaves open. -/

namespace Sys2Proof

/-- `P_CONT`: which value of bit 7 marks the last byte of a Standard VLQ encoding (00_scope.md R7). -/
inductive PCont where
  | moreSet
  | lastSet
  deriving DecidableEq, Repr

/-- `P_PREFIX`: the run of the Fast VLQ length prefix is made of ones or of zeros (00_scope.md R7). -/
inductive PPrefix where
  | ones
  | zeros
  deriving DecidableEq, Repr

/-- `P_TIER`: the Fast VLQ payload holds the value less the cumulative offset, or the value itself
(00_scope.md R7). -/
inductive PTier where
  | offset
  | absolute
  deriving DecidableEq, Repr

/-- The profile straps, constant inputs of an instance (10_state.md R40). -/
structure Profile where
  cont : PCont
  pfx  : PPrefix
  tier : PTier
  deriving DecidableEq, Repr

/-- The default profile (00_scope.md R7). -/
def Config.defaultProfile : Profile := { cont := .moreSet, pfx := .ones, tier := .offset }

/-- FREE VALUE (notes/assumptions/8.md). How many bytes of its buffer the sink keeps when it rejects
the write that carries this counter value: 20_memory.md R54 leaves it open (D19: any prefix, all or
none). -/
opaque Config.rejectKept : Nat → Nat

/-- IMPLEMENTATION CONSTANT (notes/assumptions/10.md). Whether `NATIVE_W` is 64; otherwise it is 32
(00_scope.md R8, D8). -/
opaque Config.nativeIs64 : Bool

end Sys2Proof
end

