-- ==== Sys2Proof/Syntax.lean ====
section
/-! DEFINITION. The instructions: one constructor per row of spec/opcode_table.json, the twelve
operations of 30_encoding.md R100 and the eleven wire-format rows of R81, R92 and R94; and the
pseudo-operations of R104, which are the host's. -/

namespace Sys2Proof

/-- The operand width of a standard-codec operation (00_scope.md R8). -/
inductive Width where
  | w8
  | w16
  | w32
  | w64
  | w128
  deriving DecidableEq, Repr

/-- `W` in bits (00_scope.md R8). -/
def Width.bits : Width → Nat
  | .w8 => 8
  | .w16 => 16
  | .w32 => 32
  | .w64 => 64
  | .w128 => 128

/-- The four units (00_scope.md R1). -/
inductive UnitId where
  | senc
  | sdec
  | fenc
  | fdec
  deriving DecidableEq, Repr

/-- Where an encoded instruction enters the core: a command word on a command port, a Standard VLQ
byte from the byte source, the first byte of a Fast VLQ window. The three formats of
spec/opcode_table.json (CMD5, SVLQ_BYTE, FVLQ_BYTE0) share the same numbers, so the port tells
which format a byte is read in. -/
inductive Port where
  | command
  | source
  | window
  deriving DecidableEq, Repr

/-- One constructor per row of spec/opcode_table.json. The operations hold no operand: their
operands stand on the operand and window ports (30_encoding.md R101, R103). A wire-format row holds
the payload bits of its byte: `g` is `b[6:0]` (R80); `h` is the first byte with its length prefix
masked out (44_fast_decoder.md R191). -/
inductive Instr where
  | senc8
  | senc16
  | senc32
  | senc64
  | senc128
  | sdec8
  | sdec16
  | sdec32
  | sdec64
  | sdec128
  | fenc
  | fdec
  | svlqByteMore (g : BitVec 7)
  | svlqByteLast (g : BitVec 7)
  | fvlqTier1 (h : Byte)
  | fvlqTier2 (h : Byte)
  | fvlqTier3 (h : Byte)
  | fvlqTier4 (h : Byte)
  | fvlqTier5 (h : Byte)
  | fvlqTier6 (h : Byte)
  | fvlqTier7 (h : Byte)
  | fvlqTier8
  | fvlqTier9
  deriving DecidableEq, Repr

/-- The pseudo-operations of 30_encoding.md R104. `v` stands for an unsigned operand, `x` for a signed
one; both are taken at the width of the operation. DESIGN CHOICE (notes/assumptions/15.md): operands
outside that width, and `fencU` at 64 and 128 bits, are forms the rule does not give. -/
inductive Pseudo where
  | sencU (w : Width) (v : Nat)
  | sencI (w : Width) (x : Int)
  | sdecU (w : Width)
  | sdecI (w : Width)
  | sencUsize (v : Nat)
  | sencIsize (x : Int)
  | sdecUsize
  | sdecIsize
  | fencU (w : Width) (v : Nat)
  deriving DecidableEq, Repr

end Sys2Proof
end

