-- ==== Sys2Proof/WellFormed.lean ====
section
/-! DEFINITION. When an instruction is one that some word of spec/opcode_table.json encodes: the
payload field of a Fast VLQ first byte has no bit set in the place of the length prefix
(30_encoding.md R91). -/

namespace Sys2Proof

/-- The payload field of a tier-`L` first byte fits the `8 - L` bits the table gives it
(30_encoding.md R91). Every other instruction is well formed by its type. -/
def Instr.wf : Instr → Bool
  | .fvlqTier1 h => h.toNat < 128
  | .fvlqTier2 h => h.toNat < 64
  | .fvlqTier3 h => h.toNat < 32
  | .fvlqTier4 h => h.toNat < 16
  | .fvlqTier5 h => h.toNat < 8
  | .fvlqTier6 h => h.toNat < 4
  | .fvlqTier7 h => h.toNat < 2
  | .senc8 | .senc16 | .senc32 | .senc64 | .senc128 => true
  | .sdec8 | .sdec16 | .sdec32 | .sdec64 | .sdec128 => true
  | .fenc | .fdec => true
  | .svlqByteMore _ | .svlqByteLast _ => true
  | .fvlqTier8 | .fvlqTier9 => true

end Sys2Proof
end

