-- ==== Sys2Proof/Decode.lean ====
section
/-! DEFINITION. The three decoders, total on any byte and rejecting by `none`; and the encoder, from
30_encoding.md's tables. First the bit fields both use. -/

namespace Sys2Proof

/-! ## Standard VLQ bytes -/

/-- `C_MORE`: bit 7 of every byte but the last (30_encoding.md R81). -/
def contMore (p : Profile) : BitVec 1 :=
  match p.cont with
  | .moreSet => 1
  | .lastSet => 0

/-- `C_LAST`: bit 7 of the last byte (30_encoding.md R81). -/
def contLast (p : Profile) : BitVec 1 :=
  match p.cont with
  | .moreSet => 0
  | .lastSet => 1

/-- `{c, g}`: the byte with bit 7 `c` and bits 6:0 `g` (30_encoding.md R80). -/
def wireByte (c : BitVec 1) (g : BitVec 7) : Byte := c ++ g

/-- `b[7]`, the continuation bit (30_encoding.md R80). -/
def contBit (b : Byte) : BitVec 1 := b.extractLsb' 7 1

/-- `b[6:0]`, the 7-bit group (30_encoding.md R80). -/
def groupBits (b : Byte) : BitVec 7 := b.extractLsb' 0 7

/-! ## Fast VLQ first bytes -/

/-- How many one-bits of `b` stand in a row from bit `k - 1` downward. -/
def onesFrom : Nat → Byte → Nat
  | 0, _ => 0
  | k + 1, b => if b.getLsbD k then onesFrom k b + 1 else 0

/-- `clo8(b)`: the number of leading one-bits (00_scope.md R13). -/
def clo8 (b : Byte) : Nat := onesFrom 8 b

/-- `clz8(b) = clo8(b XOR 0xFF)`: the number of leading zero-bits (00_scope.md R13). -/
def clz8 (b : Byte) : Nat := clo8 (b ^^^ 0xFF#8)

/-- The tier `L` of a first byte (30_encoding.md R96). -/
def tierLength (p : Profile) (b0 : Byte) : Nat :=
  match p.pfx with
  | .ones => clo8 b0 + 1
  | .zeros => clz8 b0 + 1

/-- `0xFF >> L`: the payload bits of a tier-`L` first byte (30_encoding.md R91). -/
def payloadMask (l : Nat) : Byte := 0xFF#8 >>> l

/-- The tier-`L` first byte with no payload bit set: the lowest byte of each range of 30_encoding.md
R91's table. -/
def emptyFirstByte (p : Profile) (l : Nat) : Byte :=
  match p.pfx, l with
  | .ones, 1 => 0x00
  | .ones, 2 => 0x80
  | .ones, 3 => 0xC0
  | .ones, 4 => 0xE0
  | .ones, 5 => 0xF0
  | .ones, 6 => 0xF8
  | .ones, 7 => 0xFC
  | .ones, 8 => 0xFE
  | .ones, _ => 0xFF
  | .zeros, 1 => 0x80
  | .zeros, 2 => 0x40
  | .zeros, 3 => 0x20
  | .zeros, 4 => 0x10
  | .zeros, 5 => 0x08
  | .zeros, 6 => 0x04
  | .zeros, 7 => 0x02
  | .zeros, 8 => 0x01
  | .zeros, _ => 0x00

/-- The tier-`L` first byte that carries the payload bits of `h` (30_encoding.md R91). -/
def firstByte (p : Profile) (l : Nat) (h : Byte) : Byte :=
  emptyFirstByte p l ||| (h &&& payloadMask l)

/-! ## The decoders -/

/-- The unit a command word names, `CMD[4:3]` (30_encoding.md R101). -/
def unitOfWord (c : BitVec 5) : UnitId :=
  match (c.extractLsb' 3 2).toNat with
  | 0 => .senc
  | 1 => .sdec
  | 2 => .fenc
  | _ => .fdec

/-- A command word `{unit, wsel}` (30_encoding.md R100, R101); the twenty reserved words spell no
operation (R102). -/
def decodeCommand (c : BitVec 5) : Option Instr :=
  match unitOfWord c, (c.extractLsb' 0 3).toNat with
  | .senc, 0 => some .senc8
  | .senc, 1 => some .senc16
  | .senc, 2 => some .senc32
  | .senc, 3 => some .senc64
  | .senc, 4 => some .senc128
  | .sdec, 0 => some .sdec8
  | .sdec, 1 => some .sdec16
  | .sdec, 2 => some .sdec32
  | .sdec, 3 => some .sdec64
  | .sdec, 4 => some .sdec128
  | .fenc, 3 => some .fenc
  | .fdec, 3 => some .fdec
  | _, _ => none

/-- A byte from the source: every byte value is one of the two rows (30_encoding.md R81, R86). -/
def decodeSource (p : Profile) (b : Byte) : Instr :=
  if contBit b = contLast p then .svlqByteLast (groupBits b) else .svlqByteMore (groupBits b)

/-- The first byte of a window: every byte value is one of the nine tiers (30_encoding.md R96). -/
def decodeWindow (p : Profile) (b0 : Byte) : Instr :=
  match tierLength p b0 with
  | 1 => .fvlqTier1 (b0 &&& payloadMask 1)
  | 2 => .fvlqTier2 (b0 &&& payloadMask 2)
  | 3 => .fvlqTier3 (b0 &&& payloadMask 3)
  | 4 => .fvlqTier4 (b0 &&& payloadMask 4)
  | 5 => .fvlqTier5 (b0 &&& payloadMask 5)
  | 6 => .fvlqTier6 (b0 &&& payloadMask 6)
  | 7 => .fvlqTier7 (b0 &&& payloadMask 7)
  | 8 => .fvlqTier8
  | _ => .fvlqTier9

/-- The instruction a byte spells at a port. A command word has five bits: a byte with bit 5, 6 or 7
set is none (30_encoding.md R101). -/
def decode (p : Profile) (port : Port) (b : Byte) : Option Instr :=
  match port with
  | .command => if b.toNat < 32 then decodeCommand (b.setWidth 5) else none
  | .source => some (decodeSource p b)
  | .window => some (decodeWindow p b)

/-! ## The encoder -/

/-- The port and the byte of an instruction: command words from the `CMD` column of 30_encoding.md
R100, source bytes from R81, first bytes from R91. -/
def encode (p : Profile) : Instr → Port × Byte
  | .senc8 => (.command, 0x00)
  | .senc16 => (.command, 0x01)
  | .senc32 => (.command, 0x02)
  | .senc64 => (.command, 0x03)
  | .senc128 => (.command, 0x04)
  | .sdec8 => (.command, 0x08)
  | .sdec16 => (.command, 0x09)
  | .sdec32 => (.command, 0x0A)
  | .sdec64 => (.command, 0x0B)
  | .sdec128 => (.command, 0x0C)
  | .fenc => (.command, 0x13)
  | .fdec => (.command, 0x1B)
  | .svlqByteMore g => (.source, wireByte (contMore p) g)
  | .svlqByteLast g => (.source, wireByte (contLast p) g)
  | .fvlqTier1 h => (.window, firstByte p 1 h)
  | .fvlqTier2 h => (.window, firstByte p 2 h)
  | .fvlqTier3 h => (.window, firstByte p 3 h)
  | .fvlqTier4 h => (.window, firstByte p 4 h)
  | .fvlqTier5 h => (.window, firstByte p 5 h)
  | .fvlqTier6 h => (.window, firstByte p 6 h)
  | .fvlqTier7 h => (.window, firstByte p 7 h)
  | .fvlqTier8 => (.window, firstByte p 8 0)
  | .fvlqTier9 => (.window, firstByte p 9 0)

/-! ## The table's numbering -/

/-- The instruction of a word as spec/opcode_table.json numbers it, under the default profile the
table is written for. The table's three formats share the numbers 0x00 to 0xFF and only the port
tells them apart, so one word cannot give every row: a number below 32 is read as a command word,
one from 0x20 to 0x7F as a Standard VLQ byte, one from 0x80 as a Fast VLQ first byte
(notes/assumptions/3.md). -/
def decodeTableWord (nbits w : Nat) : Option Instr :=
  if 2 ^ nbits ≤ w ∨ 256 ≤ w then none
  else if w < 32 then decode Config.defaultProfile .command (BitVec.ofNat 8 w)
  else if w < 128 then decode Config.defaultProfile .source (BitVec.ofNat 8 w)
  else decode Config.defaultProfile .window (BitVec.ofNat 8 w)

end Sys2Proof
end

