-- ==== Sys2Proof/Machine/State.lean ====
section
/-! DEFINITION. The state of the core: the registers of the four units (10_state.md R21, R22, R26,
R27), the profile straps (R40), and the environment's side of the interface, as plain data. -/

namespace Sys2Proof.Machine

/-- The phases of `SENC` (10_state.md R28). -/
inductive EncPhase where
  | idle
  | write
  | done
  deriving DecidableEq, Repr

/-- The phases of `SDEC` (10_state.md R29). -/
inductive DecPhase where
  | idle
  | read
  | done
  deriving DecidableEq, Repr

/-- The result code of an operation (60_exceptions.md R211); the reserved code `0b11` is never produced
and has no constructor. -/
inductive Status where
  | ok
  | overflow
  | io
  deriving DecidableEq, Repr

/-- An error token of a byte source or sink, which the core copies and never interprets (00_scope.md
R11, D9). Its width `EW` is open, so any number stands for a token; the zero token is what the
registers hold when there is none (notes/assumptions/9.md). -/
structure ErrTok where
  code : Nat
  deriving DecidableEq, Repr

/-- The two exceptions of 60_exceptions.md R210. -/
inductive Exc where
  | overflow
  | io (e : ErrTok)
  deriving DecidableEq, Repr

/-- The registers of `SENC` (10_state.md R21). -/
structure SencRegs where
  /-- `S_STATE` -/
  sState  : EncPhase
  /-- `S_W` -/
  sW      : Width
  /-- `S_VAL` -/
  sVal    : BitVec 128
  /-- `OBUF[0..18]` -/
  obuf    : Bytes 19
  /-- `OLEN` -/
  olen    : BitVec 5
  /-- `S_STATUS` -/
  sStatus : Status
  /-- `S_ETOK` -/
  sEtok   : ErrTok
  deriving DecidableEq, Repr

/-- The registers of `SDEC` (10_state.md R22). -/
structure SdecRegs where
  /-- `D_STATE` -/
  dState  : DecPhase
  /-- `D_W` -/
  dW      : Width
  /-- `ACC` -/
  acc     : BitVec 128
  /-- `GI` -/
  gi      : BitVec 5
  /-- `D_STATUS` -/
  dStatus : Status
  /-- `D_ETOK` -/
  dEtok   : ErrTok
  deriving DecidableEq, Repr

/-- The registers of `FENC` (10_state.md R26). -/
structure FencRegs where
  /-- `FV` -/
  fv     : BitVec 64
  /-- `FBUF[0..8]` -/
  fbuf   : Bytes 9
  /-- `FLEN` -/
  flen   : BitVec 4
  /-- `F_VALID` -/
  fValid : Bool
  deriving DecidableEq, Repr

/-- The registers of `FDEC` (10_state.md R27). -/
structure FdecRegs where
  /-- `FWIN[0..8]` -/
  fwin   : Bytes 9
  /-- `FOUT` -/
  fout   : BitVec 64
  /-- `FDLEN` -/
  fdlen  : BitVec 4
  /-- `G_VALID` -/
  gValid : Bool
  deriving DecidableEq, Repr

/-- A command the host offers: the command word, and what it drives on the 128-bit operand port and
the 72-bit window port (30_encoding.md R101). -/
structure Command where
  word    : BitVec 5
  operand : BitVec 128
  window  : Bytes 9
  deriving DecidableEq, Repr

/-- An answer of the byte source to `SrcRead()` (20_memory.md R51). -/
inductive SrcAnswer where
  | byte (b : Byte)
  | fail (e : ErrTok)
  deriving DecidableEq, Repr

/-- An answer of the byte sink to `SinkWrite(buf, n)` (20_memory.md R54). -/
inductive SinkAnswer where
  | ok
  | reject (e : ErrTok)
  deriving DecidableEq, Repr

/-- A request a unit has issued (20_memory.md R51, R54); a write carries the bytes `buf[0..n-1]`. -/
inductive Request where
  | srcRead
  | sinkWrite (bytes : List Byte)
  deriving DecidableEq, Repr

/-- A result as the host takes it (70_reset_and_hazards.md R256). A failed decode has no value
(42_std_decoder.md R155). -/
inductive HostResult where
  | sencOk (bytes : List Byte)
  | sencIo (e : ErrTok) (bytes : List Byte)
  | sdecOk (w : Width) (v : BitVec 128)
  | sdecOverflow
  | sdecIo (e : ErrTok)
  | fenc (buf : Bytes 9) (len : BitVec 4)
  | fdec (v : BitVec 64) (len : BitVec 4)
  deriving DecidableEq, Repr

/-- An event to try (10_state.md R28 to R30; notes/assumptions/4.md): a unit looks at its command
port; the source answers; the sink answers; the host takes a unit's result; `FDEC` gets a window, seen
from the window port (notes/assumptions/3.md). -/
inductive Action where
  | accept (u : UnitId)
  | source
  | sink
  | take (u : UnitId)
  | window (win : Bytes 9)
  deriving DecidableEq, Repr

/-- The environment's side of the interface, the model's own record of it
(notes/assumptions/4.md, 6.md, 7.md, 8.md). -/
structure Env where
  /-- the events to try, in order -/
  sched      : List Action
  /-- the commands the host offers, oldest first -/
  offers     : List Command
  /-- what stands on the operand port -/
  opPort     : BitVec 128
  /-- what stands on the window port -/
  winPort    : Bytes 9
  /-- the source's answers to come -/
  srcAnswers : List SrcAnswer
  /-- how many bytes the source has delivered: how far its cursor has advanced (20_memory.md R52) -/
  consumed   : Nat
  /-- the sink's answers to come -/
  snkAnswers : List SinkAnswer
  /-- the bytes the sink has taken, in order -/
  sunk       : List Byte
  /-- the requests issued, oldest first -/
  issued     : List Request
  /-- the results the host has taken, oldest first -/
  delivered  : List HostResult
  /-- the counter that makes each free value fresh -/
  freeCtr    : Nat
  deriving DecidableEq, Repr

/-- The state of one instance of the core. `profile` holds the instance's straps: constant, no step
writes it (10_state.md R40; notes/assumptions/2.md). -/
structure State where
  profile : Profile
  senc    : SencRegs
  sdec    : SdecRegs
  fenc    : FencRegs
  fdec    : FdecRegs
  env     : Env
  deriving DecidableEq, Repr

/-- Why the machine stops with a fault: never. The hardware has no trap; its two errors are results of
an operation (60_exceptions.md R210), so this type has no constructor. -/
inductive Fault where
  deriving DecidableEq, Repr

/-- Why the model gives an event no meaning. -/
inductive Refusal where
  /-- Raised by an arm of `exec` that has no meaning yet; no arm is left so. Safe. -/
  | notModelled (mnemonic : String)
  /-- Raised by the step that looks at a command port holding one of the twenty reserved words: it
  spells no operation, and a model refuses a launch that issues one (30_encoding.md R102, D16). Safe. -/
  | reservedCommand (word : BitVec 5)
  deriving DecidableEq, Repr

/-- `n` zero bytes. -/
def zeroBytes (n : Nat) : Bytes n := Vector.replicate n 0

/-- The registers of `SENC` at reset (70_reset_and_hazards.md R241). -/
def SencRegs.reset : SencRegs :=
  { sState := .idle, sW := .w8, sVal := 0, obuf := zeroBytes 19, olen := 0, sStatus := .ok
    sEtok := ⟨0⟩ }

/-- The registers of `SDEC` at reset (70_reset_and_hazards.md R241). -/
def SdecRegs.reset : SdecRegs :=
  { dState := .idle, dW := .w8, acc := 0, gi := 0, dStatus := .ok, dEtok := ⟨0⟩ }

/-- The registers of `FENC` at reset (70_reset_and_hazards.md R241). -/
def FencRegs.reset : FencRegs :=
  { fv := 0, fbuf := zeroBytes 9, flen := 0, fValid := false }

/-- The registers of `FDEC` at reset (70_reset_and_hazards.md R241). -/
def FdecRegs.reset : FdecRegs :=
  { fwin := zeroBytes 9, fout := 0, fdlen := 0, gValid := false }

/-- DESIGN CHOICE: nothing offered, answered, issued or taken yet (notes/assumptions/4.md, 6.md, 7.md,
8.md). -/
def Env.reset : Env :=
  { sched := [], offers := [], opPort := 0, winPort := zeroBytes 9, srcAnswers := [], consumed := 0
    snkAnswers := [], sunk := [], issued := [], delivered := [], freeCtr := 0 }

/-- The machine right after reset: all units idle (70_reset_and_hazards.md R241), the straps at their
default values (10_state.md R40). -/
def State.reset : State :=
  { profile := Config.defaultProfile, senc := SencRegs.reset, sdec := SdecRegs.reset
    fenc := FencRegs.reset, fdec := FdecRegs.reset, env := Env.reset }

end Sys2Proof.Machine
end

