-- ==== Sys2Proof/Machine/Flags.lean ====
section
/-! DEFINITION. The status computations: the result codes (60_exceptions.md R211) and the tests that
decide them (42_std_decoder.md R143). The core has no other flag (10_state.md R25). -/

namespace Sys2Proof.Machine

/-- The 2-bit code of a status register (60_exceptions.md R211). -/
def statusCode : Status → BitVec 2
  | .ok => 0b00
  | .overflow => 0b01
  | .io => 0b10

/-- The status an exception writes (60_exceptions.md R211, R213). -/
def excStatus : Exc → Status
  | .overflow => .overflow
  | .io _ => .io

/-- The token an exception records: none for `Overflow` (60_exceptions.md R211), the stream's own for
`Io(e)`, unchanged (R213). -/
def excToken : Exc → ErrTok
  | .overflow => ⟨0⟩
  | .io e => e

/-- `LMAX(W) = ceil(W/7)`, the longest canonical encoding in bytes (00_scope.md R9). -/
def lmax (w : Nat) : Nat := (w + 6) / 7

/-- The overflow test of the byte step: a non-zero group `g` at group index `gi` has a set bit at or
beyond bit `w` (42_std_decoder.md R143). -/
def groupOverflows (w gi : Nat) (g : BitVec 7) : Bool :=
  g ≠ 0 ∧ (w ≤ 7 * gi ∨ g >>> (w - 7 * gi) ≠ 0)

end Sys2Proof.Machine
end

