-- ==== Sys2Proof/Machine/Operands.lean ====
section
/-! DEFINITION. The assemblies of 30_encoding.md R103, as functions: groups from a value and a value
from groups (Standard VLQ), payload and bytes from a value and a value from a window (Fast VLQ). -/

namespace Sys2Proof.Machine

/-- The first `n` bytes of `l`, filled up with zero bytes (41_std_encoder.md R121, 43_fast_encoder.md
R171). -/
def padBytes (n : Nat) (l : List Byte) : Bytes n := Vector.ofFn fun i => l.getD i.val 0

/-! ## Standard VLQ -/

/-- The low `W` bits of the operand port, zero-extended to 128 (30_encoding.md R101, 10_state.md R28). -/
def lowBits (w : Width) (v : BitVec 128) : BitVec 128 := (v.setWidth w.bits).setWidth 128

/-- The encode loop (41_std_encoder.md R121), `fuel` passes at most. -/
def encodeLoop (p : Profile) : Nat → BitVec 128 → List Byte
  | 0, _ => []
  | fuel + 1, n =>
    if n >>> 7 = 0 then [wireByte (contLast p) (n.extractLsb' 0 7)]
    else wireByte (contMore p) (n.extractLsb' 0 7) :: encodeLoop p fuel (n >>> 7)

/-- `senc(W, v)` of 41_std_encoder.md R134: the bytes of the canonical encoding, first byte first. A
128-bit value takes 19 passes at most (R122). -/
def sencBytes (p : Profile) (v : BitVec 128) : List Byte := encodeLoop p 19 v

/-- `zext_W(g) << s`: the group placed at bit `7*GI` of a `W`-bit word (42_std_decoder.md R143). -/
def placeGroup (w : Width) (gi : Nat) (g : BitVec 7) : BitVec 128 :=
  (g.setWidth w.bits <<< (7 * gi)).setWidth 128

/-! ## Fast VLQ -/

/-- `OFF[L]`: how many values all tiers shorter than `L` hold (30_encoding.md R93). -/
def off : Nat → Nat
  | 0 => 0
  | 1 => 0
  | l + 2 => off (l + 1) + 2 ^ (7 * (l + 1))

/-- The least value too large for tier `L` (43_fast_encoder.md R171); for tier 9, none is. -/
def tierLimit (p : Profile) (l : Nat) : Nat :=
  if 9 ≤ l then 2 ^ 64
  else match p.tier with
    | .offset => off (l + 1)
    | .absolute => 2 ^ (7 * l)

/-- The least tier of 1 to 9 whose range holds `v` (43_fast_encoder.md R171, R172). -/
def tierOf (p : Profile) (v : BitVec 64) : Nat :=
  (([1, 2, 3, 4, 5, 6, 7, 8] : List Nat).find? fun l => v.toNat < tierLimit p l).getD 9

/-- The payload that stands for `v` in tier `L` (30_encoding.md R93). -/
def payloadOf (p : Profile) (l : Nat) (v : BitVec 64) : BitVec 64 :=
  match p.tier with
  | .offset => v - BitVec.ofNat 64 (off l)
  | .absolute => v

/-- The value that payload `q` stands for in tier `L`, modulo `2^64` (44_fast_decoder.md R191, R195). -/
def valueOf (p : Profile) (l : Nat) (q : BitVec 64) : BitVec 64 :=
  match p.tier with
  | .offset => q + BitVec.ofNat 64 (off l)
  | .absolute => q

/-- The prefix of tiers 1 to 8 as an `L`-bit number: `R` repeated `L-1` times, then `T`
(30_encoding.md R92). -/
def prefixNumber (p : Profile) (l : Nat) : BitVec 64 :=
  match p.pfx with
  | .ones => BitVec.ofNat 64 (2 ^ l - 2)
  | .zeros => 1

/-- The `8L`-bit number `E` of tiers 1 to 8: the prefix over the `7L` payload bits (30_encoding.md
R92). -/
def tierNumber (p : Profile) (l : Nat) (q : BitVec 64) : BitVec 64 :=
  prefixNumber p l <<< (7 * l) ||| (q &&& BitVec.ofNat 64 (2 ^ (7 * l) - 1))

/-- The low `n` bytes of `e`, most significant first (20_memory.md R58). -/
def bigEndian (n : Nat) (e : BitVec 64) : List Byte :=
  (List.range n).map fun k => (e >>> (8 * (n - 1 - k))).setWidth 8

/-- The bytes of the encoding in tier `L` with payload `q` (30_encoding.md R92, R94). -/
def fencBytes (p : Profile) (l : Nat) (q : BitVec 64) : List Byte :=
  if l ≤ 8 then bigEndian l (tierNumber p l q)
  else emptyFirstByte p 9 :: bigEndian 8 q

/-- `fenc(profile, v)` of 43_fast_encoder.md R178: the buffer and the length. -/
def fenc (p : Profile) (v : BitVec 64) : Bytes 9 × BitVec 4 :=
  (padBytes 9 (fencBytes p (tierOf p v) (payloadOf p (tierOf p v) v)),
    BitVec.ofNat 4 (tierOf p v))

/-- The payload of a window by the loop of 44_fast_decoder.md R191: `h`, then bytes 1 to `L-1`. -/
def loopPayload (l : Nat) (h : Byte) (win : Bytes 9) : BitVec 64 :=
  ((win.toList.drop 1).take (l - 1)).foldl (fun q b => q <<< 8 ||| b.setWidth 64) (h.setWidth 64)

/-- `fdec(profile, window)` of 44_fast_decoder.md R200: the value and the length. -/
def fdec (p : Profile) (win : Bytes 9) : BitVec 64 × BitVec 4 :=
  (valueOf p (tierLength p win[0])
      (loopPayload (tierLength p win[0]) (win[0] &&& payloadMask (tierLength p win[0])) win),
    BitVec.ofNat 4 (tierLength p win[0]))

end Sys2Proof.Machine
end

