-- ==== Sys2Proof/Machine/Ops.lean ====
section
/-! DEFINITION. The named operations over the registers of the units and over the environment's
record: requests, command acceptance, the byte step, raising an exception and taking a result. -/

namespace Sys2Proof.Machine

/-! ## The environment's record -/

/-- A unit issues requests (20_memory.md R51, R54). -/
def issue (rs : List Request) (s : State) : State :=
  { s with env := { s.env with issued := s.env.issued ++ rs } }

/-- The source has delivered one byte: its cursor advances by one (20_memory.md R52). -/
def advanceCursor (s : State) : State :=
  { s with env := { s.env with consumed := s.env.consumed + 1 } }

/-- The sink takes bytes (20_memory.md R54). -/
def sinkTakes (bytes : List Byte) (s : State) : State :=
  { s with env := { s.env with sunk := s.env.sunk ++ bytes } }

/-- The bytes `OBUF[0..OLEN-1]` (10_state.md R21). -/
def outBytes (r : SencRegs) : List Byte := r.obuf.toList.take r.olen.toNat

/-! ## Exceptions (60_exceptions.md R213, R217) and the end of an operation -/

/-- `SDEC` raises an exception: status and token written, `ACC` cleared, the unit in DONE; nothing is
saved and nothing else changes (60_exceptions.md R213, R217). -/
def raiseSdec (x : Exc) (d : SdecRegs) : SdecRegs :=
  { d with dState := .done, acc := 0, dStatus := excStatus x, dEtok := excToken x }

/-- `SENC` raises an exception: status and token written, the unit in DONE; `OBUF` and `OLEN` stay
(60_exceptions.md R213, 41_std_encoder.md R123). -/
def raiseSenc (x : Exc) (r : SencRegs) : SencRegs :=
  { r with sState := .done, sStatus := excStatus x, sEtok := excToken x }

/-- `SENC` ends with `OK` (10_state.md R28). -/
def finishSenc (r : SencRegs) : SencRegs :=
  { r with sState := .done, sStatus := .ok, sEtok := ⟨0⟩ }

/-! ## Command acceptance -/

/-- The unit that carries out an instruction: a command's own unit, `SDEC` for a source byte, `FDEC`
for a window's first byte. -/
def unitOf : Instr → UnitId
  | .senc8 | .senc16 | .senc32 | .senc64 | .senc128 => .senc
  | .sdec8 | .sdec16 | .sdec32 | .sdec64 | .sdec128 => .sdec
  | .fenc => .fenc
  | .fdec => .fdec
  | .svlqByteMore _ | .svlqByteLast _ => .sdec
  | .fvlqTier1 _ | .fvlqTier2 _ | .fvlqTier3 _ | .fvlqTier4 _ | .fvlqTier5 _ => .fdec
  | .fvlqTier6 _ | .fvlqTier7 _ | .fvlqTier8 | .fvlqTier9 => .fdec

/-- Whether a unit accepts a command now: `SENC` and `SDEC` in IDLE (10_state.md R28, R29), `FENC` and
`FDEC` always (R30; notes/assumptions/5.md). -/
def acceptsCommand (u : UnitId) (s : State) : Bool :=
  match u with
  | .senc => s.senc.sState = .idle
  | .sdec => s.sdec.dState = .idle
  | .fenc => true
  | .fdec => true

/-- `SENC` at command acceptance, the encode step included (10_state.md R28, 41_std_encoder.md R121). -/
def startSenc (p : Profile) (w : Width) (operand : BitVec 128) (r : SencRegs) : SencRegs :=
  let v := lowBits w operand
  { r with
    sState := .write, sW := w, sVal := v, obuf := padBytes 19 (sencBytes p v)
    olen := BitVec.ofNat 5 (sencBytes p v).length }

/-- A `SENC.<W>` command: accepted in IDLE, with one `SinkWrite(OBUF, OLEN)` issued (10_state.md R28,
41_std_encoder.md R123); otherwise the unit has no step (R28). -/
def sencCommand (w : Width) (s : State) : Host.Outcome State Fault Refusal :=
  if acceptsCommand .senc s then
    let r := startSenc s.profile w s.env.opPort s.senc
    .next (issue [.sinkWrite (outBytes r)] { s with senc := r })
  else .next s

/-- `SDEC` at command acceptance (42_std_decoder.md R141). -/
def startSdec (w : Width) (d : SdecRegs) : SdecRegs :=
  { d with dState := .read, dW := w, acc := 0, gi := 0 }

/-- An `SDEC.<W>` command: accepted in IDLE, with the first `SrcRead()` issued (42_std_decoder.md
R141); otherwise the unit has no step (10_state.md R29). -/
def sdecCommand (w : Width) (s : State) : Host.Outcome State Fault Refusal :=
  if acceptsCommand .sdec s then
    .next (issue [.srcRead] { s with sdec := startSdec w s.sdec })
  else .next s

/-! ## The byte step -/

/-- The registers of `SDEC` after a byte with continuation bit `c` and group `g`
(42_std_decoder.md R143); the overflow test comes first (R145). -/
def byteStep (p : Profile) (c : BitVec 1) (g : BitVec 7) (d : SdecRegs) : SdecRegs :=
  if groupOverflows d.dW.bits d.gi.toNat g then raiseSdec .overflow d
  else
    let acc := if 7 * d.gi.toNat < d.dW.bits then d.acc ||| placeGroup d.dW d.gi.toNat g else d.acc
    if c = contLast p then
      { d with dState := .done, acc := acc, dStatus := .ok, dEtok := ⟨0⟩ }
    else
      { d with acc := acc, gi := BitVec.ofNat 5 (min (d.gi.toNat + 1) (lmax d.dW.bits)) }

/-- The source answers `Byte` with continuation bit `c` and group `g`: in READ the byte is consumed,
and the next `SrcRead()` is issued when the operation goes on (42_std_decoder.md R142, R143); in any
other phase no read is outstanding and the unit has no step (10_state.md R29). -/
def deliverByte (c : BitVec 1) (g : BitVec 7) (s : State) : Host.Outcome State Fault Refusal :=
  if s.sdec.dState = .read then
    let d := byteStep s.profile c g s.sdec
    .next (issue (if d.dState = .read then [.srcRead] else []) (advanceCursor { s with sdec := d }))
  else .next s

/-! ## The fast units -/

/-- `FENC` accepts `v` and writes its result (43_fast_encoder.md R171). -/
def runFenc (v : BitVec 64) (s : State) : State :=
  { s with
    fenc := { fv := v, fbuf := (fenc s.profile v).1, flen := (fenc s.profile v).2, fValid := true } }

/-- `FDEC` takes the window `win` and writes the result of tier `l` with payload `q`
(44_fast_decoder.md R191). -/
def finishFdec (win : Bytes 9) (l : Nat) (q : BitVec 64) (s : State) : State :=
  { s with
    fdec := { fwin := win, fout := valueOf s.profile l q, fdlen := BitVec.ofNat 4 l, gValid := true } }

/-- The window on the port with its first byte replaced by the tier-`l` byte that carries `h`. -/
def openWindow (l : Nat) (h : Byte) (s : State) : Bytes 9 :=
  s.env.winPort.set 0 (firstByte s.profile l h)

/-! ## Results -/

/-- The result a unit offers: only in DONE, or while its valid bit is 1 (70_reset_and_hazards.md R256,
10_state.md R26, R27). -/
def offeredResult (u : UnitId) (s : State) : Option HostResult :=
  match u with
  | .senc =>
    if s.senc.sState = .done then
      match s.senc.sStatus with
      | .io => some (.sencIo s.senc.sEtok (outBytes s.senc))
      | .ok | .overflow => some (.sencOk (outBytes s.senc))
    else none
  | .sdec =>
    if s.sdec.dState = .done then
      match s.sdec.dStatus with
      | .ok => some (.sdecOk s.sdec.dW (lowBits s.sdec.dW s.sdec.acc))
      | .overflow => some .sdecOverflow
      | .io => some (.sdecIo s.sdec.dEtok)
    else none
  | .fenc => if s.fenc.fValid then some (.fenc s.fenc.fbuf s.fenc.flen) else none
  | .fdec => if s.fdec.gValid then some (.fdec s.fdec.fout s.fdec.fdlen) else none

/-- The unit's result has been taken: DONE to IDLE, or the valid bit cleared (10_state.md R26 to R29).
It is the one way back after an exception, and restores nothing (60_exceptions.md R219). -/
def releaseUnit (u : UnitId) (s : State) : State :=
  match u with
  | .senc => { s with senc := { s.senc with sState := .idle } }
  | .sdec => { s with sdec := { s.sdec with dState := .idle } }
  | .fenc => { s with fenc := { s.fenc with fValid := false } }
  | .fdec => { s with fdec := { s.fdec with gValid := false } }

end Sys2Proof.Machine
end

