-- ==== Sys2Proof/Machine/FastDecoder.lean ====
section
/-! DEFINITION. The meaning of `FDEC` by the loop of 44_fast_decoder.md R191, and of the nine Fast VLQ
first-byte patterns by the unrolled payloads of R193 (notes/assumptions/3.md). -/

namespace Sys2Proof.Machine

/-- `FDEC` (44_fast_decoder.md R191) on the window that stands on the window port. -/
def execFdec (s : State) : Host.Outcome State Fault Refusal :=
  let win := s.env.winPort
  let l := tierLength s.profile win[0]
  .next (finishFdec win l (loopPayload l (win[0] &&& payloadMask l) win) s)

/-- `FVLQ.TIER1`: `p = {B0[6:0]}` (44_fast_decoder.md R193). -/
def execFvlqTier1 (h : Byte) (s : State) : Host.Outcome State Fault Refusal :=
  let b := openWindow 1 h s
  .next (finishFdec b 1 ((b[0].extractLsb' 0 7).setWidth 64) s)

/-- `FVLQ.TIER2`: `p = {B0[5:0], B1}` (44_fast_decoder.md R193). -/
def execFvlqTier2 (h : Byte) (s : State) : Host.Outcome State Fault Refusal :=
  let b := openWindow 2 h s
  .next (finishFdec b 2 ((b[0].extractLsb' 0 6 ++ b[1]).setWidth 64) s)

/-- `FVLQ.TIER3`: `p = {B0[4:0], B1, B2}` (44_fast_decoder.md R193). -/
def execFvlqTier3 (h : Byte) (s : State) : Host.Outcome State Fault Refusal :=
  let b := openWindow 3 h s
  .next (finishFdec b 3 ((b[0].extractLsb' 0 5 ++ b[1] ++ b[2]).setWidth 64) s)

/-- `FVLQ.TIER4`: `p = {B0[3:0], B1, B2, B3}` (44_fast_decoder.md R193). -/
def execFvlqTier4 (h : Byte) (s : State) : Host.Outcome State Fault Refusal :=
  let b := openWindow 4 h s
  .next (finishFdec b 4 ((b[0].extractLsb' 0 4 ++ b[1] ++ b[2] ++ b[3]).setWidth 64) s)

/-- `FVLQ.TIER5`: `p = {B0[2:0], B1, B2, B3, B4}` (44_fast_decoder.md R193). -/
def execFvlqTier5 (h : Byte) (s : State) : Host.Outcome State Fault Refusal :=
  let b := openWindow 5 h s
  .next (finishFdec b 5 ((b[0].extractLsb' 0 3 ++ b[1] ++ b[2] ++ b[3] ++ b[4]).setWidth 64) s)

/-- `FVLQ.TIER6`: `p = {B0[1:0], B1, B2, B3, B4, B5}` (44_fast_decoder.md R193). -/
def execFvlqTier6 (h : Byte) (s : State) : Host.Outcome State Fault Refusal :=
  let b := openWindow 6 h s
  .next (finishFdec b 6
    ((b[0].extractLsb' 0 2 ++ b[1] ++ b[2] ++ b[3] ++ b[4] ++ b[5]).setWidth 64) s)

/-- `FVLQ.TIER7`: `p = {B0[0], B1, B2, B3, B4, B5, B6}` (44_fast_decoder.md R193). -/
def execFvlqTier7 (h : Byte) (s : State) : Host.Outcome State Fault Refusal :=
  let b := openWindow 7 h s
  .next (finishFdec b 7
    ((b[0].extractLsb' 0 1 ++ b[1] ++ b[2] ++ b[3] ++ b[4] ++ b[5] ++ b[6]).setWidth 64) s)

/-- `FVLQ.TIER8`: `p = {B1, B2, B3, B4, B5, B6, B7}` (44_fast_decoder.md R193). -/
def execFvlqTier8 (s : State) : Host.Outcome State Fault Refusal :=
  let b := openWindow 8 0 s
  .next (finishFdec b 8 ((b[1] ++ b[2] ++ b[3] ++ b[4] ++ b[5] ++ b[6] ++ b[7]).setWidth 64) s)

/-- `FVLQ.TIER9`: `p = {B1, B2, B3, B4, B5, B6, B7, B8}` (44_fast_decoder.md R193). -/
def execFvlqTier9 (s : State) : Host.Outcome State Fault Refusal :=
  let b := openWindow 9 0 s
  .next (finishFdec b 9
    ((b[1] ++ b[2] ++ b[3] ++ b[4] ++ b[5] ++ b[6] ++ b[7] ++ b[8]).setWidth 64) s)

end Sys2Proof.Machine
end

