-- ==== Sys2Proof/Machine/FastEncoder.lean ====
section
/-! DEFINITION. The meaning of `FENC` (43_fast_encoder.md). -/

namespace Sys2Proof.Machine

/-- `FENC` (43_fast_encoder.md R171): the operand is the low 64 bits of the operand port. -/
def execFenc (s : State) : Host.Outcome State Fault Refusal :=
  .next (runFenc (s.env.opPort.setWidth 64) s)

end Sys2Proof.Machine
end

