-- ==== Sys2Proof/Machine/StdDecoder.lean ====
section
/-! DEFINITION. The meanings of the operations of `SDEC` and of the two Standard VLQ byte patterns it
reads (42_std_decoder.md); and the big-step summary of R159, which no meaning uses. -/

namespace Sys2Proof.Machine

/-- `SDEC.8` (42_std_decoder.md R150). -/
def execSdec8 (s : State) : Host.Outcome State Fault Refusal := sdecCommand .w8 s

/-- `SDEC.16` (42_std_decoder.md R151). -/
def execSdec16 (s : State) : Host.Outcome State Fault Refusal := sdecCommand .w16 s

/-- `SDEC.32` (42_std_decoder.md R152). -/
def execSdec32 (s : State) : Host.Outcome State Fault Refusal := sdecCommand .w32 s

/-- `SDEC.64` (42_std_decoder.md R153). -/
def execSdec64 (s : State) : Host.Outcome State Fault Refusal := sdecCommand .w64 s

/-- `SDEC.128` (42_std_decoder.md R154). -/
def execSdec128 (s : State) : Host.Outcome State Fault Refusal := sdecCommand .w128 s

/-- `SVLQ.BYTE.MORE`: the source delivers a byte that is not the last (30_encoding.md R81); `SDEC`'s
byte step (42_std_decoder.md R143; notes/assumptions/3.md). -/
def execSvlqByteMore (g : BitVec 7) (s : State) : Host.Outcome State Fault Refusal :=
  deliverByte (contMore s.profile) g s

/-- `SVLQ.BYTE.LAST`: the source delivers a terminal byte (30_encoding.md R81); `SDEC`'s byte step
(42_std_decoder.md R143; notes/assumptions/3.md). -/
def execSvlqByteLast (g : BitVec 7) (s : State) : Host.Outcome State Fault Refusal :=
  deliverByte (contLast s.profile) g s

/-- How an `SDEC` operation ends (42_std_decoder.md R159). -/
inductive Summary where
  | ok (v : Nat)
  | overflow
  | io (e : ErrTok)
  deriving DecidableEq, Repr

/-- The loop of `sdec(W, answers)` from accumulator `acc` and unsaturated group index `gi`; `none` when
the answers never cause a return (42_std_decoder.md R159). The second component is how many bytes were
delivered. -/
def summaryFrom (p : Profile) (w : Nat) : List SrcAnswer → Nat → Nat → Option (Summary × Nat)
  | [], _, _ => none
  | .fail e :: _, _, gi => some (.io e, gi)
  | .byte b :: rest, acc, gi =>
    if groupBits b ≠ 0 ∧ 2 ^ w ≤ (groupBits b).toNat * 2 ^ (7 * gi) then some (.overflow, gi + 1)
    else if contBit b = contLast p then
      some (.ok (acc + (groupBits b).toNat * 2 ^ (7 * gi)), gi + 1)
    else summaryFrom p w rest (acc + (groupBits b).toNat * 2 ^ (7 * gi)) (gi + 1)

/-- `sdec(W, answers)` (42_std_decoder.md R159). -/
def sdecSummary (p : Profile) (w : Nat) (answers : List SrcAnswer) : Option (Summary × Nat) :=
  summaryFrom p w answers 0 0

end Sys2Proof.Machine
end

