-- ==== Sys2Proof/Machine/StdEncoder.lean ====
section
/-! DEFINITION. The meanings of the operations of `SENC` (41_std_encoder.md). -/

namespace Sys2Proof.Machine

/-- `SENC.8` (41_std_encoder.md R126). -/
def execSenc8 (s : State) : Host.Outcome State Fault Refusal := sencCommand .w8 s

/-- `SENC.16` (41_std_encoder.md R127). -/
def execSenc16 (s : State) : Host.Outcome State Fault Refusal := sencCommand .w16 s

/-- `SENC.32` (41_std_encoder.md R128). -/
def execSenc32 (s : State) : Host.Outcome State Fault Refusal := sencCommand .w32 s

/-- `SENC.64` (41_std_encoder.md R129). -/
def execSenc64 (s : State) : Host.Outcome State Fault Refusal := sencCommand .w64 s

/-- `SENC.128` (41_std_encoder.md R130). -/
def execSenc128 (s : State) : Host.Outcome State Fault Refusal := sencCommand .w128 s

end Sys2Proof.Machine
end

