-- ==== Sys2Proof/Machine/Dispatch.lean ====
section
/-! DEFINITION. One arm per constructor of Instr. -/

namespace Sys2Proof.Machine

def exec (i : Instr) (s : State) : Host.Outcome State Fault Refusal :=
  match i with
  | .senc8 => Sys2Proof.Machine.execSenc8 s
  | .senc16 => Sys2Proof.Machine.execSenc16 s
  | .senc32 => Sys2Proof.Machine.execSenc32 s
  | .senc64 => Sys2Proof.Machine.execSenc64 s
  | .senc128 => Sys2Proof.Machine.execSenc128 s
  | .sdec8 => Sys2Proof.Machine.execSdec8 s
  | .sdec16 => Sys2Proof.Machine.execSdec16 s
  | .sdec32 => Sys2Proof.Machine.execSdec32 s
  | .sdec64 => Sys2Proof.Machine.execSdec64 s
  | .sdec128 => Sys2Proof.Machine.execSdec128 s
  | .fenc => Sys2Proof.Machine.execFenc s
  | .fdec => Sys2Proof.Machine.execFdec s
  | .svlqByteMore g => Sys2Proof.Machine.execSvlqByteMore g s
  | .svlqByteLast g => Sys2Proof.Machine.execSvlqByteLast g s
  | .fvlqTier1 h => Sys2Proof.Machine.execFvlqTier1 h s
  | .fvlqTier2 h => Sys2Proof.Machine.execFvlqTier2 h s
  | .fvlqTier3 h => Sys2Proof.Machine.execFvlqTier3 h s
  | .fvlqTier4 h => Sys2Proof.Machine.execFvlqTier4 h s
  | .fvlqTier5 h => Sys2Proof.Machine.execFvlqTier5 h s
  | .fvlqTier6 h => Sys2Proof.Machine.execFvlqTier6 h s
  | .fvlqTier7 h => Sys2Proof.Machine.execFvlqTier7 h s
  | .fvlqTier8 => Sys2Proof.Machine.execFvlqTier8 s
  | .fvlqTier9 => Sys2Proof.Machine.execFvlqTier9 s

end Sys2Proof.Machine
end

