-- ==== Sys2Proof/Machine/Environment.lean ====
section
/-! DEFINITION. The events that are no row of the opcode table: the sink's answer, the source's
failure, the host taking a result; and the first offer for a unit on the command ports. -/

namespace Sys2Proof.Machine

/-- The oldest offer whose command word names unit `u`, and the other offers (30_encoding.md R101). -/
def firstOffer (u : UnitId) : List Command → Option (Command × List Command)
  | [] => none
  | c :: cs =>
    if unitOfWord c.word = u then some (c, cs)
    else (firstOffer u cs).map fun r => (r.1, c :: r.2)

/-- What a unit sees once it takes an offer: the offer is gone from the list, and its operand and
window stand on the ports (30_encoding.md R101). -/
def drivePorts (c : Command) (rest : List Command) (s : State) : State :=
  { s with env := { s.env with offers := rest, opPort := c.operand, winPort := c.window } }

/-- The next event is taken off the schedule. -/
def popEvent (rest : List Action) (s : State) : State :=
  { s with env := { s.env with sched := rest } }

/-- The source's next answer is taken. -/
def popSource (rest : List SrcAnswer) (s : State) : State :=
  { s with env := { s.env with srcAnswers := rest } }

/-- The sink's next answer is taken. -/
def popSink (rest : List SinkAnswer) (s : State) : State :=
  { s with env := { s.env with snkAnswers := rest } }

/-- A window stands on the window port. -/
def driveWindow (win : Bytes 9) (s : State) : State :=
  { s with env := { s.env with winPort := win } }

/-- The sink answers the outstanding `SinkWrite` (10_state.md R28). `Ok`: it has taken all the bytes
(20_memory.md R54). `Reject e`: `SENC` raises `Io(e)`, and what the sink kept is a free value
(R54, D19; notes/assumptions/8.md). -/
def sinkAnswer (a : SinkAnswer) (s : State) : State :=
  match a with
  | .ok => sinkTakes (outBytes s.senc) { s with senc := finishSenc s.senc }
  | .reject e =>
    sinkTakes ((outBytes s.senc).take (Config.rejectKept s.env.freeCtr))
      { s with
        senc := raiseSenc (.io e) s.senc
        env := { s.env with freeCtr := s.env.freeCtr + 1 } }

/-- The source answers the outstanding `SrcRead()` with `Fail e` (42_std_decoder.md R146). -/
def sourceFails (e : ErrTok) (s : State) : State :=
  { s with sdec := raiseSdec (.io e) s.sdec }

/-- The host takes a unit's result, if one is offered (10_state.md R26 to R29). -/
def takeResult (u : UnitId) (s : State) : State :=
  match offeredResult u s with
  | none => s
  | some r =>
    let t := releaseUnit u s
    { t with env := { t.env with delivered := t.env.delivered ++ [r] } }

end Sys2Proof.Machine
end

