-- ==== Sys2Proof/Machine/Transact.lean ====
section
/-! DEFINITION. What one event does (00_scope.md R17): the instruction it carries is decoded and
executed, or the environment acts. An event that no unit has a step for changes nothing
(10_state.md R28; notes/assumptions/4.md). -/

namespace Sys2Proof.Machine

/-- Unit `u` looks at its command port (10_state.md R28 to R30). A reserved word is refused
(30_encoding.md R102). A busy unit leaves the offer where it is (R28). -/
def acceptEvent (u : UnitId) (s : State) : Host.Outcome State Fault Refusal :=
  match firstOffer u s.env.offers with
  | none => .next s
  | some (c, rest) =>
    match decodeCommand c.word with
    | none => .refused (.reservedCommand c.word)
    | some i => if acceptsCommand u s then exec i (drivePorts c rest s) else .next s

/-- The source answers the outstanding `SrcRead()`; without one, or without an answer, nothing happens
(10_state.md R29, 20_memory.md R51). -/
def sourceEvent (s : State) : Host.Outcome State Fault Refusal :=
  if s.sdec.dState = .read then
    match s.env.srcAnswers with
    | [] => .next s
    | .byte b :: rest =>
      exec (decodeSource s.profile b) (popSource rest s)
    | .fail e :: rest => .next (sourceFails e (popSource rest s))
  else .next s

/-- The sink answers the outstanding `SinkWrite`; without one, or without an answer, nothing happens
(10_state.md R28, 20_memory.md R54). -/
def sinkEvent (s : State) : Host.Outcome State Fault Refusal :=
  if s.senc.sState = .write then
    match s.env.snkAnswers with
    | [] => .next s
    | a :: rest => .next (sinkAnswer a (popSink rest s))
  else .next s

/-- `FDEC` gets a window, seen from its window port: the first byte is decoded and its tier's
instruction runs (notes/assumptions/3.md). -/
def windowEvent (win : Bytes 9) (s : State) : Host.Outcome State Fault Refusal :=
  exec (decodeWindow s.profile win[0]) (driveWindow win s)

/-- One event of the schedule. -/
def runAction (a : Action) (s : State) : Host.Outcome State Fault Refusal :=
  match a with
  | .accept u => acceptEvent u s
  | .source => sourceEvent s
  | .sink => sinkEvent s
  | .take u => .next (takeResult u s)
  | .window win => windowEvent win s

/-- An idle machine waits for the host (70_reset_and_hazards.md R241): with no event to try, nothing
changes. -/
def nextEvent (s : State) : Host.Outcome State Fault Refusal :=
  match s.env.sched with
  | [] => .next s
  | a :: rest => runAction a (popEvent rest s)

/-- A byte placed at a port as the next event, with the phase its unit needs: the unit idle for a
command, reading for a source byte (notes/assumptions/3.md). -/
def placeByte (port : Port) (b : Byte) (s : State) : State :=
  match port with
  | .command =>
    let c : Command := { word := b.setWidth 5, operand := s.env.opPort, window := s.env.winPort }
    let u := unitOfWord c.word
    { s with
      senc := { s.senc with sState := if u = .senc then .idle else s.senc.sState }
      sdec := { s.sdec with dState := if u = .sdec then .idle else s.sdec.dState }
      env := { s.env with sched := .accept u :: s.env.sched, offers := c :: s.env.offers } }
  | .source =>
    { s with
      sdec := { s.sdec with dState := .read }
      env := { s.env with
        sched := .source :: s.env.sched, srcAnswers := .byte b :: s.env.srcAnswers } }
  | .window =>
    { s with env := { s.env with sched := .window (s.env.winPort.set 0 b) :: s.env.sched } }

/-- A table word placed so that the next step runs it: the instruction the decoder reads from it, in
the encoding of the state's own profile; a word that spells no instruction stands on the command port
as it is. -/
def placeTableWord (nbits w : Nat) (s : State) : State :=
  match decodeTableWord nbits w with
  | some i => placeByte (encode s.profile i).1 (encode s.profile i).2 s
  | none => placeByte .command (BitVec.ofNat 8 w) s

end Sys2Proof.Machine
end

