-- ==== Sys2Proof/Machine/Step.lean ====
section
/-! DEFINITION. One step of the machine: one event (00_scope.md R17). -/

namespace Sys2Proof.Machine

/-- One event: the next of the schedule. -/
def step (s : State) : Host.Outcome State Fault Refusal := nextEvent s

/-- `s` with a word of spec/opcode_table.json placed where the next step takes its event from. -/
def State.withFetchWord (s : State) (nbits w : Nat) : State := placeTableWord nbits w s

end Sys2Proof.Machine
end

