-- ==== Sys2Proof/Machine/Pseudo.lean ====
section
/-! DEFINITION. The pseudo-operations of 30_encoding.md R104: what the host issues for each, and how
it reads a signed result. They change nothing in the hardware. -/

namespace Sys2Proof.Machine

/-- `NATIVE_W` (00_scope.md R8; notes/assumptions/10.md). -/
def nativeWidth : Width := if Config.nativeIs64 then .w64 else .w32

/-- The `SENC` operation of width `W` (30_encoding.md R100). -/
def sencOf : Width → Instr
  | .w8 => .senc8
  | .w16 => .senc16
  | .w32 => .senc32
  | .w64 => .senc64
  | .w128 => .senc128

/-- The `SDEC` operation of width `W` (30_encoding.md R100). -/
def sdecOf : Width → Instr
  | .w8 => .sdec8
  | .w16 => .sdec16
  | .w32 => .sdec32
  | .w64 => .sdec64
  | .w128 => .sdec128

/-- An operation with an operand, as the host offers it. The command word does not depend on the
profile. -/
def commandFor (i : Instr) (operand : BitVec 128) : Command :=
  { word := (encode Config.defaultProfile i).2.setWidth 5, operand := operand, window := zeroBytes 9 }

/-- The same `W` bits of a signed number, read as unsigned: `x mod 2^W` (30_encoding.md R104). -/
def signedPattern (w : Width) (x : Int) : BitVec 128 := (BitVec.ofInt w.bits x).setWidth 128

/-- A `W`-bit result read as two's complement: `r` when `r < 2^(W-1)`, else `r - 2^W`
(30_encoding.md R104). -/
def readSigned (w : Width) (r : BitVec 128) : Int :=
  if r.toNat < 2 ^ (w.bits - 1) then r.toNat else (r.toNat : Int) - 2 ^ w.bits

/-- The command a pseudo-operation expands to (30_encoding.md R104). DESIGN CHOICE
(notes/assumptions/15.md): the rule gives `FENC.U<W>` for `W < 64` only; here it expands at every width,
at 64 to `FENC v`, and at 128, where no fast encoding is defined (U15, D24), to a command of which
`FENC` reads the low 64 bits. An operand outside the range of its width is taken modulo `2^W`. -/
def expand : Pseudo → Command
  | .sencU w v => commandFor (sencOf w) (BitVec.ofNat w.bits v |>.setWidth 128)
  | .sencI w x => commandFor (sencOf w) (signedPattern w x)
  | .sdecU w => commandFor (sdecOf w) 0
  | .sdecI w => commandFor (sdecOf w) 0
  | .sencUsize v => commandFor (sencOf nativeWidth) (BitVec.ofNat nativeWidth.bits v |>.setWidth 128)
  | .sencIsize x => commandFor (sencOf nativeWidth) (signedPattern nativeWidth x)
  | .sdecUsize => commandFor (sdecOf nativeWidth) 0
  | .sdecIsize => commandFor (sdecOf nativeWidth) 0
  | .fencU w v => commandFor .fenc (BitVec.ofNat w.bits v |>.setWidth 128)

end Sys2Proof.Machine
end

