-- ==== Sys2Proof/Safety.lean ====
section
/-! DEFINITION. What a good state is and what a safe step is, in the terms the claims use. -/

namespace Sys2Proof.Machine

/-- The registers of `SENC` are as 10_state.md R21 says: `S_VAL` fits `W` bits, `OBUF` is zero from
`OLEN` on, the status is never `OVERFLOW`, the token is 0 unless the status is `IO`; and while an
operation is in progress `OBUF` and `OLEN` hold the encoding of `S_VAL`. -/
structure SencGood (p : Profile) (r : SencRegs) : Prop where
  value_fits : r.sVal.toNat < 2 ^ r.sW.bits
  length_le : r.olen.toNat ≤ 19
  tail_zero : ∀ k : Fin 19, r.olen.toNat ≤ k.val → r.obuf[k] = 0
  never_overflow : r.sStatus ≠ .overflow
  token_zero : r.sStatus ≠ .io → r.sEtok = ⟨0⟩
  holds_encoding : r.sState ≠ .idle → outBytes r = sencBytes p r.sVal

/-- The registers of `SDEC` are as 10_state.md R22 and 42_std_decoder.md R143 say: `ACC` fits `W` bits
and, while reading, the groups read so far; `GI` is at most `LMAX(W)`; the token is 0 unless the status
is `IO`; a failed operation shows `ACC = 0`. -/
structure SdecGood (d : SdecRegs) : Prop where
  acc_fits : d.acc.toNat < 2 ^ d.dW.bits
  acc_below_group : d.dState = .read → d.acc.toNat < 2 ^ (7 * d.gi.toNat)
  index_le : d.gi.toNat ≤ lmax d.dW.bits
  token_zero : d.dStatus ≠ .io → d.dEtok = ⟨0⟩
  failed_zero : d.dState = .done → d.dStatus ≠ .ok → d.acc = 0

/-- The registers of `FENC` are as 10_state.md R26 says: `FBUF` is zero from `FLEN` on, and a result
that is offered is the encoding of `FV`. -/
structure FencGood (p : Profile) (r : FencRegs) : Prop where
  length_le : r.flen.toNat ≤ 9
  tail_zero : ∀ k : Fin 9, r.flen.toNat ≤ k.val → r.fbuf[k] = 0
  holds_encoding : r.fValid = true → 1 ≤ r.flen.toNat ∧ (r.fbuf, r.flen) = fenc p r.fv

/-- The registers of `FDEC` are as 10_state.md R27 says: a result that is offered is the decoding of
`FWIN`. -/
structure FdecGood (p : Profile) (r : FdecRegs) : Prop where
  length_le : r.fdlen.toNat ≤ 9
  holds_decoding : r.gValid = true → 1 ≤ r.fdlen.toNat ∧ (r.fout, r.fdlen) = fdec p r.fwin

/-- The invariant of the machine: each unit's registers are as 10_state.md says. -/
structure Inv (s : State) : Prop where
  senc : SencGood s.profile s.senc
  sdec : SdecGood s.sdec
  fenc : FencGood s.profile s.fenc
  fdec : FdecGood s.profile s.fdec

/-- No offered command is one of the twenty reserved words (30_encoding.md R102). -/
def offersLegal (s : State) : Prop := ∀ c ∈ s.env.offers, decodeCommand c.word ≠ none

/-- The step takes a next state. -/
def safeStep (s : State) : Prop := ∃ t, step s = .next t

/-! ## Terms the statements share -/

/-- The five operations of `SENC`, each with its width (30_encoding.md R100). -/
def sencRows : List (Instr × Width) :=
  [(.senc8, .w8), (.senc16, .w16), (.senc32, .w32), (.senc64, .w64), (.senc128, .w128)]

/-- The five operations of `SDEC`, each with its width (30_encoding.md R100). -/
def sdecRows : List (Instr × Width) :=
  [(.sdec8, .w8), (.sdec16, .w16), (.sdec32, .w32), (.sdec64, .w64), (.sdec128, .w128)]

/-- The nine Fast VLQ first-byte rows, each with its tier; `h` holds the payload bits. -/
def tierRows (h : Byte) : List (Instr × Nat) :=
  [(.fvlqTier1 h, 1), (.fvlqTier2 h, 2), (.fvlqTier3 h, 3), (.fvlqTier4 h, 4), (.fvlqTier5 h, 5),
    (.fvlqTier6 h, 6), (.fvlqTier7 h, 7), (.fvlqTier8, 8), (.fvlqTier9, 9)]

/-- `SDEC`'s next source events, with the answers the source will give. -/
def withAnswers (answers : List SrcAnswer) (s : State) : State :=
  { s with
    env := { s.env with
      sched := List.replicate answers.length .source, srcAnswers := answers } }

/-- The group overflows width `w` at group index `gi`: `g * 2^(7*GI) >= 2^W` for a non-zero group
(60_exceptions.md R212). -/
def tooWide (w gi : Nat) (g : BitVec 7) : Prop :=
  g ≠ 0 ∧ 2 ^ w ≤ g.toNat * 2 ^ (7 * gi)

/-- The payload of a window of tier `l` as a number: the first byte's low `8-L` bits, then bytes 1 to
`L-1`, most significant first (44_fast_decoder.md R191, R193). -/
def payloadNat (l : Nat) (win : Bytes 9) : Nat :=
  (List.range (l - 1)).foldl (fun q k => q * 256 + ((win.toList[k + 1]?).getD 0).toNat)
    (win[0].toNat % 2 ^ (8 - l))

/-- The unit whose step an event is. -/
def agentOf : Action → UnitId
  | .accept u => u
  | .source => .sdec
  | .sink => .senc
  | .take u => u
  | .window _ => .fdec

end Sys2Proof.Machine
end

