-- ==== Sys2Proof/Certificates/Slice0/Obligations.lean ====
section
/-! DEFINITION. The statements for the provers. Each docstring names the rule of spec/ it is about. -/

open Sys2Proof Sys2Proof.Machine

/-! ## Encodings -/

/-- 30_encoding.md R100 and R102 (the command word is the spec's own decision D6): the twelve command
words decode to their operations and the other twenty to none. -/
def Obligations.CommandWordsAsTabled : Prop :=
  decodeCommand 0b00000 = some .senc8 ∧ decodeCommand 0b00001 = some .senc16 ∧
  decodeCommand 0b00010 = some .senc32 ∧ decodeCommand 0b00011 = some .senc64 ∧
  decodeCommand 0b00100 = some .senc128 ∧ decodeCommand 0b01000 = some .sdec8 ∧
  decodeCommand 0b01001 = some .sdec16 ∧ decodeCommand 0b01010 = some .sdec32 ∧
  decodeCommand 0b01011 = some .sdec64 ∧ decodeCommand 0b01100 = some .sdec128 ∧
  decodeCommand 0b10011 = some .fenc ∧ decodeCommand 0b11011 = some .fdec ∧
  ∀ c : BitVec 5,
    c ∉ ([0x00, 0x01, 0x02, 0x03, 0x04, 0x08, 0x09, 0x0A, 0x0B, 0x0C, 0x13, 0x1B] : List (BitVec 5)) →
    decodeCommand c = none

/-- 30_encoding.md R81 and R91: bytes written out bit by bit decode to their rows at the source and at
the window port, in both polarities. -/
def Obligations.WireBytesAsTabled : Prop :=
  decode ⟨.moreSet, .ones, .offset⟩ .source 0b11100000 = some (.svlqByteMore 0b1100000) ∧
  decode ⟨.moreSet, .ones, .offset⟩ .source 0b00000011 = some (.svlqByteLast 0b0000011) ∧
  decode ⟨.lastSet, .ones, .offset⟩ .source 0b01010100 = some (.svlqByteMore 0b1010100) ∧
  decode ⟨.lastSet, .ones, .offset⟩ .source 0b10000011 = some (.svlqByteLast 0b0000011) ∧
  decode ⟨.moreSet, .ones, .offset⟩ .window 0b01010101 = some (.fvlqTier1 0b1010101) ∧
  decode ⟨.moreSet, .ones, .offset⟩ .window 0b10101010 = some (.fvlqTier2 0b101010) ∧
  decode ⟨.moreSet, .ones, .offset⟩ .window 0b11010110 = some (.fvlqTier3 0b10110) ∧
  decode ⟨.moreSet, .ones, .offset⟩ .window 0b11101001 = some (.fvlqTier4 0b1001) ∧
  decode ⟨.moreSet, .ones, .offset⟩ .window 0b11110101 = some (.fvlqTier5 0b101) ∧
  decode ⟨.moreSet, .ones, .offset⟩ .window 0b11111010 = some (.fvlqTier6 0b10) ∧
  decode ⟨.moreSet, .ones, .offset⟩ .window 0b11111101 = some (.fvlqTier7 0b1) ∧
  decode ⟨.moreSet, .ones, .offset⟩ .window 0b11111110 = some .fvlqTier8 ∧
  decode ⟨.moreSet, .ones, .offset⟩ .window 0b11111111 = some .fvlqTier9 ∧
  decode ⟨.moreSet, .zeros, .offset⟩ .window 0b00110110 = some (.fvlqTier3 0b10110) ∧
  decode ⟨.moreSet, .zeros, .offset⟩ .window 0b00000001 = some .fvlqTier8 ∧
  decode ⟨.moreSet, .zeros, .offset⟩ .window 0b00000000 = some .fvlqTier9

/-- Every well-formed instruction, with every operand its encoding admits, is what its own byte
decodes to at its own port, under every profile (30_encoding.md R81, R91, R100). -/
def Obligations.DecodeOfEncodeIsTheInstruction : Prop :=
  ∀ (p : Profile) (i : Instr), i.wf = true → decode p (encode p i).1 (encode p i).2 = some i

/-- No two bytes at a port spell the same instruction and no bit of a byte is dropped: what a byte
decodes to is well formed and encodes back to that byte (30_encoding.md R81, R91, R100). -/
def Obligations.EncodeOfDecodeIsTheByte : Prop :=
  ∀ (p : Profile) (port : Port) (b : Byte) (i : Instr),
    decode p port b = some i → i.wf = true ∧ encode p i = (port, b)

/-- 44_fast_decoder.md R192: the length of a Fast VLQ encoding for each range of first bytes. -/
def Obligations.FirstByteTellsTheLength : Prop :=
  ∀ (c : PCont) (t : PTier) (b : Byte),
    tierLength ⟨c, .ones, t⟩ b =
      (if b.toNat ≤ 0x7F then 1 else if b.toNat ≤ 0xBF then 2 else if b.toNat ≤ 0xDF then 3
       else if b.toNat ≤ 0xEF then 4 else if b.toNat ≤ 0xF7 then 5 else if b.toNat ≤ 0xFB then 6
       else if b.toNat ≤ 0xFD then 7 else if b.toNat ≤ 0xFE then 8 else 9) ∧
    tierLength ⟨c, .zeros, t⟩ b =
      (if 0x80 ≤ b.toNat then 1 else if 0x40 ≤ b.toNat then 2 else if 0x20 ≤ b.toNat then 3
       else if 0x10 ≤ b.toNat then 4 else if 0x08 ≤ b.toNat then 5 else if 0x04 ≤ b.toNat then 6
       else if 0x02 ≤ b.toNat then 7 else if 0x01 ≤ b.toNat then 8 else 9)

/-- 30_encoding.md R93: the cumulative offsets as numbers. -/
def Obligations.OffsetsAsTabled : Prop :=
  off 1 = 0 ∧ off 2 = 0x80 ∧ off 3 = 0x4080 ∧ off 4 = 0x204080 ∧ off 5 = 0x10204080 ∧
  off 6 = 0x0810204080 ∧ off 7 = 0x040810204080 ∧ off 8 = 0x02040810204080 ∧
  off 9 = 0x0102040810204080

/-! ## The step -/

/-- When the next event is unit `u` looking at its command port, the oldest offer for `u` spells
instruction `i` and `u` accepts, the step is `exec` of `i`, with the offer taken and its operand and
window on the ports. The schedule is the model's own (notes/assumptions/4.md). -/
def Obligations.StepRunsTheDecodedCommand : Prop :=
  ∀ (s : State) (u : UnitId) (rest : List Action) (c : Command) (others : List Command) (i : Instr),
    s.env.sched = .accept u :: rest → firstOffer u s.env.offers = some (c, others) →
    decodeCommand c.word = some i → acceptsCommand u s = true →
    step s = exec i { s with
      env := { s.env with
        sched := rest, offers := others, opPort := c.operand, winPort := c.window } }

/-- When the next event is the source's answer, a read is outstanding and the answer is a byte, the
step is `exec` of the instruction the byte decodes to at the source, with the answer taken. -/
def Obligations.StepRunsTheDecodedSourceByte : Prop :=
  ∀ (s : State) (rest : List Action) (b : Byte) (answers : List SrcAnswer) (i : Instr),
    s.env.sched = .source :: rest → s.sdec.dState = .read → s.env.srcAnswers = .byte b :: answers →
    decode s.profile .source b = some i →
    step s = exec i { s with env := { s.env with sched := rest, srcAnswers := answers } }

/-- When the next event is a window seen from `FDEC`'s window port, the step is `exec` of the
instruction its first byte decodes to there, with the window on the port. The event is the model's own
view of an `FDEC` transaction (notes/assumptions/3.md). -/
def Obligations.StepRunsTheDecodedWindow : Prop :=
  ∀ (s : State) (rest : List Action) (win : Bytes 9) (i : Instr),
    s.env.sched = .window win :: rest → decode s.profile .window win[0] = some i →
    step s = exec i { s with env := { s.env with sched := rest, winPort := win } }

/-- 10_state.md R28, R29: a command offered to a busy unit is not accepted until the unit is idle. That
the unit's look at its port is then a step that uses up its place in the schedule and changes nothing
else is the model's choice (notes/assumptions/4.md). -/
def Obligations.BusyUnitLeavesTheOffer : Prop :=
  ∀ (s : State) (u : UnitId) (rest : List Action) (c : Command) (others : List Command) (i : Instr),
    s.env.sched = .accept u :: rest → firstOffer u s.env.offers = some (c, others) →
    decodeCommand c.word = some i →
    (u = .senc ∧ s.senc.sState ≠ .idle ∨ u = .sdec ∧ s.sdec.dState ≠ .idle) →
    step s = .next { s with env := { s.env with sched := rest } }

/-- 30_encoding.md R102 (the spec's decision D16): a reserved command word is refused, by name. That it
is refused when its unit looks at its port, busy or not, is the model's choice
(notes/assumptions/12.md). -/
def Obligations.ReservedCommandIsRefused : Prop :=
  ∀ (s : State) (u : UnitId) (rest : List Action) (c : Command) (others : List Command),
    s.env.sched = .accept u :: rest → firstOffer u s.env.offers = some (c, others) →
    decodeCommand c.word = none → step s = .refused (.reservedCommand c.word)

/-- 60_exceptions.md R210 (an error is a result, not a transfer of control) and 30_encoding.md R102: a
step never faults, and is refused only for a reserved word that is offered; where none is, it always
takes a next state. That an event no unit has a step for takes one too is the model's choice
(notes/assumptions/4.md, 11.md), and so is when a reserved word is refused (12.md). -/
def Obligations.StepStopsOnlyOnReservedWords : Prop :=
  (∀ (s : State) (f : Fault), step s ≠ .fault f) ∧
  (∀ (s : State) (r : Refusal), step s = .refused r →
    ∃ c ∈ s.env.offers, decodeCommand c.word = none ∧ r = .reservedCommand c.word) ∧
  ∀ s : State, offersLegal s → safeStep s

/-! ## SENC -/

/-- 41_std_encoder.md R121 in its closed form, with 10_state.md R28: an idle `SENC` accepts, holds the
operand at its width, and `OBUF` and `OLEN` hold the groups of the value, least significant first,
with the continuation bit on all but the last; the bytes past `OLEN` are zero (the spec's decision
D13). -/
def Obligations.SencEncodesAtAcceptance : Prop :=
  ∀ (i : Instr) (w : Width) (s : State), (i, w) ∈ sencRows → s.senc.sState = .idle →
    ∃ t, exec i s = .next t ∧
      t.senc.sState = .write ∧ t.senc.sW = w ∧
      t.senc.sVal.toNat = s.env.opPort.toNat % 2 ^ w.bits ∧
      t.senc.olen.toNat = max 1 ((Nat.size t.senc.sVal.toNat + 6) / 7) ∧
      ∀ k : Fin 19,
        t.senc.obuf[k].toNat =
          if k.val + 1 < t.senc.olen.toNat then
            128 * (contMore s.profile).toNat + t.senc.sVal.toNat / 2 ^ (7 * k.val) % 128
          else if k.val + 1 = t.senc.olen.toNat then
            128 * (contLast s.profile).toNat + t.senc.sVal.toNat / 2 ^ (7 * k.val) % 128
          else 0

/-- 30_encoding.md R83, R84 and 41_std_encoder.md R122: an accepted operand takes 1 to `LMAX(W)` bytes;
its value fits the groups of those bytes and, from two bytes on, not the groups of one byte less; and
it takes exactly `LMAX(W)` when its value is at least `2^(7*(LMAX(W)-1))`, so whenever bit `W-1` is
set. -/
def Obligations.SencLengthIsMinimalAndBounded : Prop :=
  ∀ (i : Instr) (w : Width) (s t : State), (i, w) ∈ sencRows → s.senc.sState = .idle →
    exec i s = .next t →
    1 ≤ t.senc.olen.toNat ∧ t.senc.olen.toNat ≤ lmax w.bits ∧
    t.senc.sVal.toNat < 2 ^ (7 * t.senc.olen.toNat) ∧
    (2 ≤ t.senc.olen.toNat → 2 ^ (7 * (t.senc.olen.toNat - 1)) ≤ t.senc.sVal.toNat) ∧
    (t.senc.olen.toNat = lmax w.bits ↔ 2 ^ (7 * (lmax w.bits - 1)) ≤ t.senc.sVal.toNat) ∧
    (s.env.opPort.getLsbD (w.bits - 1) = true → t.senc.olen.toNat = lmax w.bits)

/-- 30_encoding.md R82 and R83: the bytes `SENC` writes are `SVLQ.BYTE.MORE` rows ended by one
`SVLQ.BYTE.LAST` row, whose group is not zero when there are two bytes or more. -/
def Obligations.SencWritesCanonicalRows : Prop :=
  ∀ (i : Instr) (w : Width) (s t : State), (i, w) ∈ sencRows → s.senc.sState = .idle →
    exec i s = .next t →
    ∃ (init : List Byte) (last : Byte) (g : BitVec 7), outBytes t.senc = init ++ [last] ∧
      (∀ b ∈ init, ∃ h, decodeSource s.profile b = .svlqByteMore h) ∧
      decodeSource s.profile last = .svlqByteLast g ∧ (init ≠ [] → g ≠ 0)

/-- The frame of the five `SENC` operations: of `SENC`'s registers the status and the token keep their
values, the other units and the straps are untouched, and of the environment only the list of issued
requests grows, by one write. On a busy `SENC`, which has no step (10_state.md R28), `exec` answers the
same state: the model's choice (notes/assumptions/11.md). -/
def Obligations.SencFrame : Prop :=
  ∀ (i : Instr) (w : Width) (s t : State), (i, w) ∈ sencRows → exec i s = .next t →
    t.profile = s.profile ∧ t.sdec = s.sdec ∧ t.fenc = s.fenc ∧ t.fdec = s.fdec ∧
    t.senc.sStatus = s.senc.sStatus ∧ t.senc.sEtok = s.senc.sEtok ∧
    (s.senc.sState = .idle →
      t.env = { s.env with issued := s.env.issued ++ [.sinkWrite (outBytes t.senc)] }) ∧
    (s.senc.sState ≠ .idle → t = s)

/-- 41_std_encoder.md R123: one `SinkWrite(OBUF, OLEN)` is issued after the encode step; on `Ok` the
operation ends `OK`, on `Reject e` with `IO` and the token; nothing more is issued; and `OBUF` and
`OLEN` keep the encoding until the host takes the result. A sink that accepts has taken all the bytes,
in order (20_memory.md R54). What a sink that rejects has kept is open (R54, the spec's decision D19);
that it is some prefix is the model's choice, a free value (notes/assumptions/8.md). -/
def Obligations.SencOneWriteAndItsAnswer : Prop :=
  (∀ (i : Instr) (w : Width) (s t : State), (i, w) ∈ sencRows → s.senc.sState = .idle →
    exec i s = .next t →
    t.env.issued = s.env.issued ++ [.sinkWrite (t.senc.obuf.toList.take t.senc.olen.toNat)]) ∧
  (∀ (s : State) (rest : List Action) (answers : List SinkAnswer),
    s.env.sched = .sink :: rest → s.senc.sState = .write → s.env.snkAnswers = .ok :: answers →
    ∃ t, step s = .next t ∧
      t.senc = { s.senc with sState := .done, sStatus := .ok, sEtok := ⟨0⟩ } ∧
      t.env.issued = s.env.issued ∧ t.env.sunk = s.env.sunk ++ outBytes s.senc) ∧
  (∀ (s : State) (rest : List Action) (e : ErrTok) (answers : List SinkAnswer),
    s.env.sched = .sink :: rest → s.senc.sState = .write →
    s.env.snkAnswers = .reject e :: answers →
    ∃ t, step s = .next t ∧
      t.senc = { s.senc with sState := .done, sStatus := .io, sEtok := e } ∧
      t.env.issued = s.env.issued ∧
      ∃ kept, kept <+: outBytes s.senc ∧ t.env.sunk = s.env.sunk ++ kept) ∧
  ∀ s t : State, s.senc.sState ≠ .idle → step s = .next t →
    t.senc.obuf = s.senc.obuf ∧ t.senc.olen = s.senc.olen ∧
    ∃ more, t.env.issued = s.env.issued ++ more ∧ ∀ bytes, Request.sinkWrite bytes ∉ more

/-! ## SDEC -/

/-- 42_std_decoder.md R141: an idle `SDEC` accepts, is set up to read group 0, and has issued its first
read; it has not ended, so it reads at least one byte. The frame: status, token, the other units and
the rest of the environment keep their values. -/
def Obligations.SdecStartsReading : Prop :=
  ∀ (i : Instr) (w : Width) (s : State), (i, w) ∈ sdecRows → s.sdec.dState = .idle →
    exec i s = .next { s with
      sdec := { s.sdec with dState := .read, dW := w, acc := 0, gi := 0 }
      env := { s.env with issued := s.env.issued ++ [.srcRead] } }

/-- The five `SDEC` operations on a busy unit: the unit has no step (10_state.md R28, R29). That `exec`,
a total function, then answers the same state as the next one is the model's choice
(notes/assumptions/11.md). -/
def Obligations.BusySdecChangesNothing : Prop :=
  ∀ (i : Instr) (w : Width) (s : State), (i, w) ∈ sdecRows → s.sdec.dState ≠ .idle →
    exec i s = .next s

/-- 42_std_decoder.md R143, for `SVLQ.BYTE.MORE` and `SVLQ.BYTE.LAST` in READ, when the group fits: the
accumulator gains `g * 2^(7*GI)`; a terminal byte ends the operation `OK`, any other moves `GI` on,
saturating at `LMAX(W)`, and the next read is issued. The premise `SdecGood` is the invariant that
`StepKeepsTheInvariant` states. -/
def Obligations.SdecByteThatFits : Prop :=
  ∀ (s : State) (g : BitVec 7), s.sdec.dState = .read → SdecGood s.sdec →
    ¬ tooWide s.sdec.dW.bits s.sdec.gi.toNat g →
    (∃ t, exec (.svlqByteLast g) s = .next t ∧
      t.sdec.dState = .done ∧ t.sdec.dStatus = .ok ∧ t.sdec.dEtok = ⟨0⟩ ∧
      t.sdec.dW = s.sdec.dW ∧ t.sdec.gi = s.sdec.gi ∧
      t.sdec.acc.toNat = s.sdec.acc.toNat + g.toNat * 2 ^ (7 * s.sdec.gi.toNat)) ∧
    ∃ t, exec (.svlqByteMore g) s = .next t ∧
      t.sdec.dState = .read ∧ t.sdec.dStatus = s.sdec.dStatus ∧ t.sdec.dEtok = s.sdec.dEtok ∧
      t.sdec.dW = s.sdec.dW ∧
      t.sdec.gi.toNat = min (s.sdec.gi.toNat + 1) (lmax s.sdec.dW.bits) ∧
      t.sdec.acc.toNat = s.sdec.acc.toNat + g.toNat * 2 ^ (7 * s.sdec.gi.toNat)

/-- The frame of `SVLQ.BYTE.MORE` and `SVLQ.BYTE.LAST`: the other units and the straps are untouched;
in READ one byte is consumed and at most one read issued (10_state.md R29, 42_std_decoder.md R147). In
another phase the unit has no step (R29), and `exec` answers the same state: the model's choice
(notes/assumptions/11.md). -/
def Obligations.SdecByteFrame : Prop :=
  ∀ (i : Instr) (g : BitVec 7) (s t : State), i ∈ [.svlqByteMore g, .svlqByteLast g] →
    exec i s = .next t →
    t.profile = s.profile ∧ t.senc = s.senc ∧ t.fenc = s.fenc ∧ t.fdec = s.fdec ∧
    t.sdec.dW = s.sdec.dW ∧
    (s.sdec.dState = .read →
      t.env = { s.env with
        consumed := s.env.consumed + 1
        issued := s.env.issued ++ if t.sdec.dState = .read then [.srcRead] else [] }) ∧
    (s.sdec.dState ≠ .read → t = s)

/-- 60_exceptions.md R212: `Overflow` is raised by the byte step exactly when the group just read is
non-zero and `g * 2^(7*GI) >= 2^W`, whether or not the byte is terminal; by nothing else in the
machine. -/
def Obligations.OverflowCauseExactly : Prop :=
  (∀ (i : Instr) (g : BitVec 7) (s : State), i ∈ [.svlqByteMore g, .svlqByteLast g] →
    s.sdec.dState = .read →
    ∃ t, exec i s = .next t ∧
      (tooWide s.sdec.dW.bits s.sdec.gi.toNat g →
        t.sdec = { s.sdec with dState := .done, acc := 0, dStatus := .overflow, dEtok := ⟨0⟩ }) ∧
      (¬ tooWide s.sdec.dW.bits s.sdec.gi.toNat g →
        t.sdec.dState = .read ∧ t.sdec.dStatus = s.sdec.dStatus ∨
        t.sdec.dState = .done ∧ t.sdec.dStatus = .ok)) ∧
  ∀ s t : State, step s = .next t →
    (t.senc.sStatus = .overflow → s.senc.sStatus = .overflow) ∧
    (t.sdec.dStatus = .overflow → s.sdec.dStatus ≠ .overflow →
      ∃ rest b answers, s.env.sched = .source :: rest ∧ s.sdec.dState = .read ∧
        s.env.srcAnswers = .byte b :: answers ∧
        tooWide s.sdec.dW.bits s.sdec.gi.toNat (groupBits b))

/-- 42_std_decoder.md R146: a failed read ends the operation with `IO` and the source's token, with no
value, whatever was read before; no byte is consumed and no further read issued. -/
def Obligations.SourceFailureEndsTheDecode : Prop :=
  ∀ (s : State) (rest : List Action) (e : ErrTok) (answers : List SrcAnswer),
    s.env.sched = .source :: rest → s.sdec.dState = .read → s.env.srcAnswers = .fail e :: answers →
    step s = .next { s with
      sdec := { s.sdec with dState := .done, acc := 0, dStatus := .io, dEtok := e }
      env := { s.env with sched := rest, srcAnswers := answers } }

/-- 60_exceptions.md R213: `Io(e)` is raised by `SDEC` when a read is answered `Fail e` and by `SENC`
when its write is answered `Reject e`, with the token unchanged; no other event of the machine makes a
status `IO`. -/
def Obligations.IoCauseExactly : Prop :=
  (∀ (s : State) (rest : List Action) (e : ErrTok) (answers : List SrcAnswer),
    s.env.sched = .source :: rest → s.sdec.dState = .read → s.env.srcAnswers = .fail e :: answers →
    ∃ t, step s = .next t ∧
      t.sdec = { s.sdec with dState := .done, acc := 0, dStatus := .io, dEtok := e } ∧
      t.env.consumed = s.env.consumed ∧ t.env.issued = s.env.issued) ∧
  (∀ (s : State) (rest : List Action) (e : ErrTok) (answers : List SinkAnswer),
    s.env.sched = .sink :: rest → s.senc.sState = .write →
    s.env.snkAnswers = .reject e :: answers →
    ∃ t, step s = .next t ∧
      t.senc = { s.senc with sState := .done, sStatus := .io, sEtok := e } ∧
      t.env.issued = s.env.issued) ∧
  ∀ s t : State, step s = .next t →
    (t.sdec.dStatus = .io → t.sdec.dStatus = s.sdec.dStatus ∧ t.sdec.dEtok = s.sdec.dEtok ∨
      ∃ rest e answers, s.env.sched = .source :: rest ∧ s.sdec.dState = .read ∧
        s.env.srcAnswers = .fail e :: answers ∧ t.sdec.dEtok = e) ∧
    (t.senc.sStatus = .io → t.senc.sStatus = s.senc.sStatus ∧ t.senc.sEtok = s.senc.sEtok ∨
      ∃ rest e answers, s.env.sched = .sink :: rest ∧ s.senc.sState = .write ∧
        s.env.snkAnswers = .reject e :: answers ∧ t.senc.sEtok = e)

/-- 20_memory.md R53: reads are in stream order, the first byte supplying group 0; the next read is
issued only after a byte that was neither terminal nor overflowing; and no step of the machine takes a
byte outside READ, or issues a read but by acceptance or after such a byte. -/
def Obligations.SdecReadsOneByteAtATime : Prop :=
  (∀ (i : Instr) (w : Width) (s t : State), (i, w) ∈ sdecRows → s.sdec.dState = .idle →
    exec i s = .next t →
    t.sdec.gi = 0 ∧ t.env.srcAnswers = s.env.srcAnswers ∧
    t.env.issued = s.env.issued ++ [.srcRead]) ∧
  (∀ (s : State) (rest : List Action) (b : Byte) (answers : List SrcAnswer),
    s.env.sched = .source :: rest → s.sdec.dState = .read → s.env.srcAnswers = .byte b :: answers →
    ∃ t, step s = .next t ∧ t.env.srcAnswers = answers ∧ t.env.consumed = s.env.consumed + 1 ∧
      (contBit b = contMore s.profile ∧ ¬ tooWide s.sdec.dW.bits s.sdec.gi.toNat (groupBits b) →
        t.env.issued = s.env.issued ++ [.srcRead] ∧ t.sdec.dState = .read) ∧
      (contBit b = contLast s.profile ∨ tooWide s.sdec.dW.bits s.sdec.gi.toNat (groupBits b) →
        t.env.issued = s.env.issued ∧ t.sdec.dState = .done)) ∧
  ∀ s t : State, step s = .next t →
    (s.sdec.dState ≠ .read →
      t.env.srcAnswers = s.env.srcAnswers ∧ t.env.consumed = s.env.consumed) ∧
    ∃ more, t.env.issued = s.env.issued ++ more ∧
      (Request.srcRead ∈ more → more = [.srcRead] ∧ t.sdec.dState = .read ∧
        (s.sdec.dState = .idle ∨
          s.sdec.dState = .read ∧ t.env.consumed = s.env.consumed + 1))

/-- 10_state.md R29: outside READ `SDEC` has no outstanding read and the source's event is no step of it.
That the event then uses up its place in the schedule and changes nothing else is the model's choice
(notes/assumptions/4.md). -/
def Obligations.SourceEventOutsideReadChangesNothing : Prop :=
  ∀ (s : State) (rest : List Action), s.env.sched = .source :: rest → s.sdec.dState ≠ .read →
    step s = .next { s with env := { s.env with sched := rest } }

/-- 42_std_decoder.md R149: continuation bytes with a zero group keep `SDEC` reading, however many the
source delivers; each is consumed and the value does not change. -/
def Obligations.ZeroGroupsKeepTheDecoderReading : Prop :=
  ∀ (n : Nat) (s : State), s.sdec.dState = .read →
    ∃ t, Host.Core.run core n
        (withAnswers (List.replicate n (.byte (wireByte (contMore s.profile) 0))) s) = .next t ∧
      t.sdec.dState = .read ∧ t.sdec.acc = s.sdec.acc ∧ t.sdec.dW = s.sdec.dW ∧
      t.env.consumed = s.env.consumed + n

/-- 42_std_decoder.md R159 with R147 and 70_reset_and_hazards.md R260: the registers, run over any
answers of the source, end as the big-step summary says, after consuming exactly the bytes it says and
issuing one read for each, and one more when the source failed; the answers after that stay, since the
source events left over change nothing but the schedule (the model's choice,
notes/assumptions/4.md). -/
def Obligations.SdecRefinesItsSummary : Prop :=
  ∀ (i : Instr) (w : Width) (s s' : State) (answers : List SrcAnswer) (r : Summary) (k : Nat),
    (i, w) ∈ sdecRows → s.sdec.dState = .idle → exec i s = .next s' →
    sdecSummary s.profile w.bits answers = some (r, k) →
    ∃ t, Host.Core.run core answers.length (withAnswers answers s') = .next t ∧
      t.sdec.dState = .done ∧ t.env.consumed = s.env.consumed + k ∧
      match r with
      | .ok v =>
        t.sdec.dStatus = .ok ∧ t.sdec.dEtok = ⟨0⟩ ∧ t.sdec.acc.toNat = v ∧
        t.env.srcAnswers = answers.drop k ∧
        t.env.issued = s.env.issued ++ List.replicate k .srcRead
      | .overflow =>
        t.sdec.dStatus = .overflow ∧ t.sdec.dEtok = ⟨0⟩ ∧ t.sdec.acc = 0 ∧
        t.env.srcAnswers = answers.drop k ∧
        t.env.issued = s.env.issued ++ List.replicate k .srcRead
      | .io e =>
        t.sdec.dStatus = .io ∧ t.sdec.dEtok = e ∧ t.sdec.acc = 0 ∧
        t.env.srcAnswers = answers.drop (k + 1) ∧
        t.env.issued = s.env.issued ++ List.replicate (k + 1) .srcRead

/-- 41_std_encoder.md R131: the bytes `SENC.<W> v` writes, read back by `SDEC.<W2>` under the same
profile, give `OK` and `v`, at the same width and at every width `W2` that holds `v`. -/
def Obligations.StandardRoundTrip : Prop :=
  ∀ (i j : Instr) (w w2 : Width) (s s1 s2 : State), (i, w) ∈ sencRows → (j, w2) ∈ sdecRows →
    s.senc.sState = .idle → s.sdec.dState = .idle → exec i s = .next s1 → exec j s1 = .next s2 →
    s1.senc.sVal.toNat < 2 ^ w2.bits →
    ∃ t, Host.Core.run core (outBytes s1.senc).length
        (withAnswers ((outBytes s1.senc).map .byte) s2) = .next t ∧
      t.sdec.dState = .done ∧ t.sdec.dStatus = .ok ∧ t.sdec.acc = s1.senc.sVal ∧
      t.sdec.acc.toNat = s.env.opPort.toNat % 2 ^ w.bits ∧
      t.env.consumed = s.env.consumed + (outBytes s1.senc).length

/-- 20_memory.md R61: the bytes of a value that does not fit the width they are read at give the
overflow error and no value. -/
def Obligations.NarrowDecodeOverflows : Prop :=
  ∀ (i j : Instr) (w w2 : Width) (s s1 s2 : State), (i, w) ∈ sencRows → (j, w2) ∈ sdecRows →
    s.senc.sState = .idle → s.sdec.dState = .idle → exec i s = .next s1 → exec j s1 = .next s2 →
    2 ^ w2.bits ≤ s1.senc.sVal.toNat →
    ∃ t, Host.Core.run core (outBytes s1.senc).length
        (withAnswers ((outBytes s1.senc).map .byte) s2) = .next t ∧
      t.sdec.dState = .done ∧ t.sdec.dStatus = .overflow ∧ t.sdec.acc = 0

/-! ## FENC -/

/-- 43_fast_encoder.md R171, with the byte layout of 30_encoding.md R92 and R94 as numbers: `FENC`
completes in every state; `E` is the prefix over the payload, the payload is the value less `OFF[L]`
or the value, and the bytes past `FLEN` are zero (the spec's decision D13). -/
def Obligations.FencResult : Prop :=
  ∀ s : State, ∃ t, exec .fenc s = .next t ∧
    t.fenc.fv.toNat = s.env.opPort.toNat % 2 ^ 64 ∧ t.fenc.fValid = true ∧
    ∃ q : Nat,
      q + (if s.profile.tier = .offset then off t.fenc.flen.toNat else 0) = t.fenc.fv.toNat ∧
      (t.fenc.flen.toNat ≤ 8 → q < 2 ^ (7 * t.fenc.flen.toNat)) ∧
      ∀ k : Fin 9,
        t.fenc.fbuf[k].toNat =
          if t.fenc.flen.toNat ≤ k.val then 0
          else if t.fenc.flen.toNat ≤ 8 then
            ((if s.profile.pfx = .ones then 2 ^ t.fenc.flen.toNat - 2 else 1)
                * 2 ^ (7 * t.fenc.flen.toNat) + q)
              / 2 ^ (8 * (t.fenc.flen.toNat - 1 - k.val)) % 256
          else if k.val = 0 then (if s.profile.pfx = .ones then 255 else 0)
          else q / 2 ^ (8 * (8 - k.val)) % 256

/-- 30_encoding.md R95: the tier is the smallest whose range holds the value; 0 to `0x7F` take one
byte, `0x80` takes two and `2^64 - 1` takes nine, under either value of `P_TIER`. -/
def Obligations.FencPicksTheSmallestTier : Prop :=
  ∀ s t : State, exec .fenc s = .next t →
    1 ≤ t.fenc.flen.toNat ∧ t.fenc.flen.toNat ≤ 9 ∧
    (t.fenc.flen.toNat ≤ 8 → t.fenc.fv.toNat <
      if s.profile.tier = .offset then off (t.fenc.flen.toNat + 1) else 2 ^ (7 * t.fenc.flen.toNat)) ∧
    (∀ l, 1 ≤ l → l < t.fenc.flen.toNat →
      (if s.profile.tier = .offset then off (l + 1) else 2 ^ (7 * l)) ≤ t.fenc.fv.toNat) ∧
    (t.fenc.fv.toNat ≤ 0x7F → t.fenc.flen = 1) ∧ (t.fenc.fv.toNat = 0x80 → t.fenc.flen = 2) ∧
    (t.fenc.fv.toNat = 2 ^ 64 - 1 → t.fenc.flen = 9)

/-- 43_fast_encoder.md R173: `FENC` completes for every operand, and writes no status and no token of
any unit. -/
def Obligations.FencHasNoFailure : Prop :=
  ∀ (s : State) (v : BitVec 64), ∃ t,
    exec .fenc { s with env := { s.env with opPort := v.setWidth 128 } } = .next t ∧
    t.fenc.fv = v ∧ t.senc = s.senc ∧ t.sdec = s.sdec

/-! ## FDEC -/

/-- 44_fast_decoder.md R191: `FDEC` completes in every state; the length is one more than the run of
leading bits of byte 0, the payload is the bits below the prefix with the following bytes, big-endian,
and the value is the payload plus `OFF[L]` modulo `2^64`, or the payload; and the rule's worked
example. -/
def Obligations.FdecResult : Prop :=
  (∀ s : State, ∃ t l, exec .fdec s = .next t ∧ 1 ≤ l ∧ l ≤ 9 ∧
    t = { s with fdec := t.fdec } ∧
    t.fdec.fwin = s.env.winPort ∧ t.fdec.fdlen.toNat = l ∧ t.fdec.gValid = true ∧
    (∀ k, k + 1 < l → t.fdec.fwin[0].getLsbD (7 - k) = decide (s.profile.pfx = .ones)) ∧
    (l ≤ 8 → t.fdec.fwin[0].getLsbD (8 - l) = !decide (s.profile.pfx = .ones)) ∧
    t.fdec.fout.toNat =
      (payloadNat l t.fdec.fwin + if s.profile.tier = .offset then off l else 0) % 2 ^ 64) ∧
  ∀ s t : State, s.profile = Config.defaultProfile →
    s.env.winPort = padBytes 9 [0xC0, 0xA9, 0xE0] → exec .fdec s = .next t →
    t.fdec.fdlen = 3 ∧ t.fdec.fout = 0xEA60

/-- 44_fast_decoder.md R193, for the nine rows `FVLQ.TIER1` to `FVLQ.TIER9`: each completes in every
state, with the length of its tier and the payload of its row; the window is the port's, opened by the
row's own byte. -/
def Obligations.TierRowResults : Prop :=
  ∀ (h : Byte) (i : Instr) (l : Nat) (s : State), (i, l) ∈ tierRows h → i.wf = true →
    ∃ t, exec i s = .next t ∧
      t.fdec.fwin = s.env.winPort.set 0 (encode s.profile i).2 ∧
      t.fdec.fdlen.toNat = l ∧ t.fdec.gValid = true ∧
      t.fdec.fout.toNat =
        (payloadNat l t.fdec.fwin + if s.profile.tier = .offset then off l else 0) % 2 ^ 64

/-- 44_fast_decoder.md R193 against R191, and 30_encoding.md R96: `FDEC` on a window does what the row
its first byte decodes to does, so the loop and the unrolled form agree, and `FDEC` itself reads its
window by those rows. That a row stands for an `FDEC` transaction is the model's choice
(notes/assumptions/3.md). -/
def Obligations.FdecDoesWhatItsTierRowDoes : Prop :=
  ∀ (s : State) (i : Instr), decode s.profile .window s.env.winPort[0] = some i →
    exec .fdec s = exec i s

/-- 44_fast_decoder.md R194: the window bytes at and after `FDLEN` have no effect on the value or the
length. -/
def Obligations.FdecIgnoresTheTail : Prop :=
  ∀ s s' t t' : State, s.profile = s'.profile → exec .fdec s = .next t → exec .fdec s' = .next t' →
    (∀ k : Fin 9, k.val < t.fdec.fdlen.toNat → s.env.winPort[k] = s'.env.winPort[k]) →
    t'.fdec.fout = t.fdec.fout ∧ t'.fdec.fdlen = t.fdec.fdlen

/-- 44_fast_decoder.md R195 (the spec's decision D15): under `OFFSET` a tier-9 payload of
`2^64 - OFF[9]` or more wraps to a value below `OFF[9]`, and completes as any other. -/
def Obligations.WastedWindowsWrap : Prop :=
  ∀ s t : State, s.profile.tier = .offset → tierLength s.profile s.env.winPort[0] = 9 →
    0xFEFDFBF7EFDFBF80 ≤ payloadNat 9 s.env.winPort → exec .fdec s = .next t →
    t.fdec.fout.toNat + 2 ^ 64 = payloadNat 9 s.env.winPort + 0x0102040810204080 ∧
    t.fdec.fout.toNat ≤ 0x010204081020407F ∧ t.fdec.fdlen = 9

/-- The frame of `FENC`, `FDEC` and the nine `FVLQ.TIER` rows: each writes its own unit's registers
and nothing else. -/
def Obligations.FastUnitsFrame : Prop :=
  (∀ s t : State, exec .fenc s = .next t → t = { s with fenc := t.fenc }) ∧
  (∀ s t : State, exec .fdec s = .next t → t = { s with fdec := t.fdec }) ∧
  ∀ (h : Byte) (i : Instr) (l : Nat) (s t : State), (i, l) ∈ tierRows h → exec i s = .next t →
    t = { s with fdec := t.fdec }

/-- 43_fast_encoder.md R176: decoding what `FENC` wrote, under the same profile, gives the value and
the length back; encoding 0 gives one byte in both codecs; two values never have one encoding; and the
length never decreases as the value grows. -/
def Obligations.FastCodecProperties : Prop :=
  (∀ s t : State, exec .fenc s = .next t →
    ∃ u, exec .fdec { t with env := { t.env with winPort := t.fenc.fbuf } } = .next u ∧
      u.fdec.fout = t.fenc.fv ∧ u.fdec.fdlen = t.fenc.flen) ∧
  (∀ s t : State, exec .fenc s = .next t → t.fenc.fv = 0 → t.fenc.flen = 1) ∧
  (∀ (i : Instr) (w : Width) (s t : State), (i, w) ∈ sencRows → s.senc.sState = .idle →
    exec i s = .next t → t.senc.sVal = 0 → t.senc.olen = 1) ∧
  (∀ s s' t t' : State, s.profile = s'.profile → exec .fenc s = .next t → exec .fenc s' = .next t' →
    (t.fenc.fv = t'.fenc.fv ↔ t.fenc.fbuf = t'.fenc.fbuf) ∧
    (t.fenc.fv = t'.fenc.fv → t.fenc.flen = t'.fenc.flen)) ∧
  ∀ s s' t t' : State, s.profile = s'.profile → exec .fenc s = .next t → exec .fenc s' = .next t' →
    t.fenc.fv.toNat ≤ t'.fenc.fv.toNat → t.fenc.flen.toNat ≤ t'.fenc.flen.toNat

/-- 44_fast_decoder.md R197: a window whose first `FLEN` bytes are what `FENC v` wrote, and whose other
bytes are anything, decodes to `v` and `FLEN`, under the same profile. -/
def Obligations.FastRoundTripWithAnyFiller : Prop :=
  ∀ s t s' : State, exec .fenc s = .next t → s'.profile = s.profile →
    (∀ k : Fin 9, k.val < t.fenc.flen.toNat → s'.env.winPort[k] = t.fenc.fbuf[k]) →
    ∃ u, exec .fdec s' = .next u ∧ u.fdec.fout = t.fenc.fv ∧ u.fdec.fdlen = t.fenc.flen

/-! ## Results, reset, invariants, independence -/

/-- 10_state.md R26 to R29 and 70_reset_and_hazards.md R256: a unit offers a result exactly in DONE or
while its valid bit is 1, and what it offers is its result registers: `SENC` its status, its token when
that is `IO`, and `OBUF[0..OLEN-1]`; `SDEC` `ACC` at `D_W`, or its error, with no value
(42_std_decoder.md R155); `FENC` `FBUF` and `FLEN`; `FDEC` `FOUT` and `FDLEN`. The host takes a result
only while it is offered; the unit is then idle, or its valid bit clear, with every other register as
it was. That `SENC`'s status is never `OVERFLOW` is `StepKeepsTheInvariant`. The record of results taken
is the model's (notes/assumptions/7.md), and so is that a take with no result offered changes only the
schedule (notes/assumptions/4.md). -/
def Obligations.HostTakesResults : Prop :=
  (∀ s : State,
    (offeredResult .senc s ≠ none ↔ s.senc.sState = .done) ∧
    (s.senc.sState = .done → s.senc.sStatus = .ok →
      offeredResult .senc s = some (.sencOk (s.senc.obuf.toList.take s.senc.olen.toNat))) ∧
    (s.senc.sState = .done → s.senc.sStatus = .io →
      offeredResult .senc s =
        some (.sencIo s.senc.sEtok (s.senc.obuf.toList.take s.senc.olen.toNat))) ∧
    (offeredResult .sdec s ≠ none ↔ s.sdec.dState = .done) ∧
    (s.sdec.dState = .done → s.sdec.dStatus = .ok →
      ∃ v, offeredResult .sdec s = some (.sdecOk s.sdec.dW v) ∧
        v.toNat = s.sdec.acc.toNat % 2 ^ s.sdec.dW.bits) ∧
    (s.sdec.dState = .done → s.sdec.dStatus = .overflow →
      offeredResult .sdec s = some .sdecOverflow) ∧
    (s.sdec.dState = .done → s.sdec.dStatus = .io →
      offeredResult .sdec s = some (.sdecIo s.sdec.dEtok)) ∧
    offeredResult .fenc s =
      (if s.fenc.fValid = true then some (.fenc s.fenc.fbuf s.fenc.flen) else none) ∧
    offeredResult .fdec s =
      (if s.fdec.gValid = true then some (.fdec s.fdec.fout s.fdec.fdlen) else none)) ∧
  ∀ (s : State) (u : UnitId) (rest : List Action), s.env.sched = .take u :: rest →
    ∃ t, step s = .next t ∧ t.profile = s.profile ∧
      (offeredResult u s = none → t = { s with env := { s.env with sched := rest } }) ∧
      (∀ r, offeredResult u s = some r →
        t.env = { s.env with sched := rest, delivered := s.env.delivered ++ [r] } ∧
        offeredResult u t = none ∧
        t.senc = (if u = .senc then { s.senc with sState := .idle } else s.senc) ∧
        t.sdec = (if u = .sdec then { s.sdec with dState := .idle } else s.sdec) ∧
        t.fenc = (if u = .fenc then { s.fenc with fValid := false } else s.fenc) ∧
        t.fdec = (if u = .fdec then { s.fdec with gValid := false } else s.fdec)) ∧
      (∀ w v, offeredResult .sdec s = some (.sdecOk w v) → s.sdec.dState = .done ∧
        s.sdec.dStatus = .ok)

/-- 70_reset_and_hazards.md R241 (the spec's decision D17) with the default straps of 10_state.md R40:
the registers at reset. The environment's fields are the model's own choice
(notes/assumptions/4.md, 6.md, 7.md, 8.md) and not stated here. -/
def Obligations.ResetRegisters : Prop :=
  State.reset.senc = ⟨.idle, .w8, 0, Vector.replicate 19 0, 0, .ok, ⟨0⟩⟩ ∧
  State.reset.sdec = ⟨.idle, .w8, 0, 0, .ok, ⟨0⟩⟩ ∧
  State.reset.fenc = ⟨0, Vector.replicate 9 0, 0, false⟩ ∧
  State.reset.fdec = ⟨Vector.replicate 9 0, 0, 0, false⟩ ∧
  State.reset.profile = ⟨.moreSet, .ones, .offset⟩

/-- The invariant holds at reset (70_reset_and_hazards.md R241). -/
def Obligations.ResetMeetsTheInvariant : Prop := Inv State.reset

/-- Every step keeps the invariant: the registers stay as 10_state.md R21, R22, R26 and R27 describe
them (values within their width, buffers zero past their length, no `OVERFLOW` in `SENC`, a failed
decode shows 0, an offered result is the encoding or decoding of its operand). -/
def Obligations.StepKeepsTheInvariant : Prop :=
  ∀ s t : State, Inv s → step s = .next t → Inv t

/-- 10_state.md R40: the straps are constant: no event writes them, so no run does. -/
def Obligations.StrapsAreConstant : Prop :=
  ∀ (n : Nat) (s t : State), Host.Core.run core n s = .next t → t.profile = s.profile

/-- 10_state.md R20, 20_memory.md R67: events of different units commute. In either order every unit's
registers, the source's cursor and answers, the sink and the offers come out the same. -/
def Obligations.UnitsAreIndependent : Prop :=
  ∀ (s t : State) (a b : Action), agentOf a ≠ agentOf b →
    Host.Core.run core 2 { s with env := { s.env with sched := [a, b] } } = .next t →
    ∃ t', Host.Core.run core 2 { s with env := { s.env with sched := [b, a] } } = .next t' ∧
      t'.senc = t.senc ∧ t'.sdec = t.sdec ∧ t'.fenc = t.fenc ∧ t'.fdec = t.fdec ∧
      t'.env.consumed = t.env.consumed ∧ t'.env.srcAnswers = t.env.srcAnswers ∧
      t'.env.sunk = t.env.sunk ∧ t'.env.snkAnswers = t.env.snkAnswers ∧
      t'.env.offers = t.env.offers

/-- 10_state.md R31: the result of an operation is a function of its operands, the profile and the
answers of the source or the sink: two states that agree on those end each operation with the same
registers, whatever earlier operations left. -/
def Obligations.EarlierOperationsLeaveNoTrace : Prop :=
  (∀ (i : Instr) (w : Width) (s s' t t' : State) (a : SinkAnswer), (i, w) ∈ sencRows →
    s.profile = s'.profile → s.env.opPort = s'.env.opPort →
    s.senc.sState = .idle → s'.senc.sState = .idle → exec i s = .next t → exec i s' = .next t' →
    t.senc.obuf = t'.senc.obuf ∧ t.senc.olen = t'.senc.olen ∧
    (sinkAnswer a t).senc = (sinkAnswer a t').senc) ∧
  (∀ (i : Instr) (w : Width) (s s' t t' : State) (answers : List SrcAnswer) (u u' : State),
    (i, w) ∈ sdecRows → s.profile = s'.profile → s.sdec.dState = .idle → s'.sdec.dState = .idle →
    exec i s = .next t → exec i s' = .next t' →
    Host.Core.run core answers.length (withAnswers answers t) = .next u →
    Host.Core.run core answers.length (withAnswers answers t') = .next u' →
    u.sdec.dState = u'.sdec.dState ∧ u.sdec.acc = u'.sdec.acc ∧ u.sdec.gi = u'.sdec.gi ∧
    (u.sdec.dState = .done → u.sdec = u'.sdec)) ∧
  ∀ s s' t t' : State, s.profile = s'.profile → s.env.opPort = s'.env.opPort →
    s.env.winPort = s'.env.winPort →
    (exec .fenc s = .next t → exec .fenc s' = .next t' → t.fenc = t'.fenc) ∧
    (exec .fdec s = .next t → exec .fdec s' = .next t' → t.fdec = t'.fdec)

/-- 30_encoding.md R104: `SENC.I<W> x` is the `SENC.<W>` command with the two's-complement pattern of
`x`, and a `W`-bit result with that pattern is read back as `x`. -/
def Obligations.SignedPseudoOperations : Prop :=
  ∀ (w : Width) (x : Int), -(2 : Int) ^ (w.bits - 1) ≤ x → x < (2 : Int) ^ (w.bits - 1) →
    decodeCommand (expand (.sencI w x)).word = some (sencOf w) ∧
    ((expand (.sencI w x)).operand.toNat : Int) = x % (2 : Int) ^ w.bits ∧
    decodeCommand (expand (.sdecI w)).word = some (sdecOf w) ∧
    readSigned w (expand (.sencI w x)).operand = x

/-- 30_encoding.md R104, 43_fast_encoder.md R177: `SENC.U<W> v` is `SENC.<W> v` and `SDEC.U<W>` is
`SDEC.<W>`; `FENC.U<W> v`, given for `W < 64` only, is `FENC` with `v` zero-extended to 64 bits. The
forms at 64 and 128 bits are the model's choice (notes/assumptions/15.md) and not stated here. -/
def Obligations.UnsignedPseudoOperations : Prop :=
  ∀ (w : Width) (v : Nat), v < 2 ^ w.bits →
    decodeCommand (expand (.sencU w v)).word = some (sencOf w) ∧
    (expand (.sencU w v)).operand.toNat = v ∧
    decodeCommand (expand (.sdecU w)).word = some (sdecOf w) ∧
    (w.bits < 64 → decodeCommand (expand (.fencU w v)).word = some .fenc ∧
      (expand (.fencU w v)).operand.toNat = v)
end

