-- ==== Sys2Proof/Laws/State.lean ====
section
/-! SUPPORT. One lemma per field per update, true by rfl: no later proof unfolds a record update. -/

namespace Sys2Proof.Machine

/-! ## issue -/

section
variable (rs : List Request) (s : State)

@[simp] theorem issue_profile : (issue rs s).profile = s.profile := rfl
@[simp] theorem issue_senc : (issue rs s).senc = s.senc := rfl
@[simp] theorem issue_sdec : (issue rs s).sdec = s.sdec := rfl
@[simp] theorem issue_fenc : (issue rs s).fenc = s.fenc := rfl
@[simp] theorem issue_fdec : (issue rs s).fdec = s.fdec := rfl
@[simp] theorem issue_env_sched : (issue rs s).env.sched = s.env.sched := rfl
@[simp] theorem issue_env_offers : (issue rs s).env.offers = s.env.offers := rfl
@[simp] theorem issue_env_opPort : (issue rs s).env.opPort = s.env.opPort := rfl
@[simp] theorem issue_env_winPort : (issue rs s).env.winPort = s.env.winPort := rfl
@[simp] theorem issue_env_srcAnswers : (issue rs s).env.srcAnswers = s.env.srcAnswers := rfl
@[simp] theorem issue_env_consumed : (issue rs s).env.consumed = s.env.consumed := rfl
@[simp] theorem issue_env_snkAnswers : (issue rs s).env.snkAnswers = s.env.snkAnswers := rfl
@[simp] theorem issue_env_sunk : (issue rs s).env.sunk = s.env.sunk := rfl
@[simp] theorem issue_env_issued : (issue rs s).env.issued = s.env.issued ++ rs := rfl
@[simp] theorem issue_env_delivered : (issue rs s).env.delivered = s.env.delivered := rfl
@[simp] theorem issue_env_freeCtr : (issue rs s).env.freeCtr = s.env.freeCtr := rfl
end

/-! ## advanceCursor -/

section
variable (s : State)

@[simp] theorem advanceCursor_profile : (advanceCursor s).profile = s.profile := rfl
@[simp] theorem advanceCursor_senc : (advanceCursor s).senc = s.senc := rfl
@[simp] theorem advanceCursor_sdec : (advanceCursor s).sdec = s.sdec := rfl
@[simp] theorem advanceCursor_fenc : (advanceCursor s).fenc = s.fenc := rfl
@[simp] theorem advanceCursor_fdec : (advanceCursor s).fdec = s.fdec := rfl
@[simp] theorem advanceCursor_env_sched : (advanceCursor s).env.sched = s.env.sched := rfl
@[simp] theorem advanceCursor_env_offers : (advanceCursor s).env.offers = s.env.offers := rfl
@[simp] theorem advanceCursor_env_opPort : (advanceCursor s).env.opPort = s.env.opPort := rfl
@[simp] theorem advanceCursor_env_winPort : (advanceCursor s).env.winPort = s.env.winPort := rfl
@[simp] theorem advanceCursor_env_srcAnswers : (advanceCursor s).env.srcAnswers =
      s.env.srcAnswers := rfl
@[simp] theorem advanceCursor_env_consumed : (advanceCursor s).env.consumed =
      s.env.consumed + 1 := rfl
@[simp] theorem advanceCursor_env_snkAnswers : (advanceCursor s).env.snkAnswers =
      s.env.snkAnswers := rfl
@[simp] theorem advanceCursor_env_sunk : (advanceCursor s).env.sunk = s.env.sunk := rfl
@[simp] theorem advanceCursor_env_issued : (advanceCursor s).env.issued = s.env.issued := rfl
@[simp] theorem advanceCursor_env_delivered : (advanceCursor s).env.delivered =
      s.env.delivered := rfl
@[simp] theorem advanceCursor_env_freeCtr : (advanceCursor s).env.freeCtr = s.env.freeCtr := rfl
end

/-! ## sinkTakes -/

section
variable (bytes : List Byte) (s : State)

@[simp] theorem sinkTakes_profile : (sinkTakes bytes s).profile = s.profile := rfl
@[simp] theorem sinkTakes_senc : (sinkTakes bytes s).senc = s.senc := rfl
@[simp] theorem sinkTakes_sdec : (sinkTakes bytes s).sdec = s.sdec := rfl
@[simp] theorem sinkTakes_fenc : (sinkTakes bytes s).fenc = s.fenc := rfl
@[simp] theorem sinkTakes_fdec : (sinkTakes bytes s).fdec = s.fdec := rfl
@[simp] theorem sinkTakes_env_sched : (sinkTakes bytes s).env.sched = s.env.sched := rfl
@[simp] theorem sinkTakes_env_offers : (sinkTakes bytes s).env.offers = s.env.offers := rfl
@[simp] theorem sinkTakes_env_opPort : (sinkTakes bytes s).env.opPort = s.env.opPort := rfl
@[simp] theorem sinkTakes_env_winPort : (sinkTakes bytes s).env.winPort = s.env.winPort := rfl
@[simp] theorem sinkTakes_env_srcAnswers : (sinkTakes bytes s).env.srcAnswers =
      s.env.srcAnswers := rfl
@[simp] theorem sinkTakes_env_consumed : (sinkTakes bytes s).env.consumed = s.env.consumed := rfl
@[simp] theorem sinkTakes_env_snkAnswers : (sinkTakes bytes s).env.snkAnswers =
      s.env.snkAnswers := rfl
@[simp] theorem sinkTakes_env_sunk : (sinkTakes bytes s).env.sunk = s.env.sunk ++ bytes := rfl
@[simp] theorem sinkTakes_env_issued : (sinkTakes bytes s).env.issued = s.env.issued := rfl
@[simp] theorem sinkTakes_env_delivered : (sinkTakes bytes s).env.delivered = s.env.delivered := rfl
@[simp] theorem sinkTakes_env_freeCtr : (sinkTakes bytes s).env.freeCtr = s.env.freeCtr := rfl
end

/-! ## drivePorts -/

section
variable (c : Command) (rest : List Command) (s : State)

@[simp] theorem drivePorts_profile : (drivePorts c rest s).profile = s.profile := rfl
@[simp] theorem drivePorts_senc : (drivePorts c rest s).senc = s.senc := rfl
@[simp] theorem drivePorts_sdec : (drivePorts c rest s).sdec = s.sdec := rfl
@[simp] theorem drivePorts_fenc : (drivePorts c rest s).fenc = s.fenc := rfl
@[simp] theorem drivePorts_fdec : (drivePorts c rest s).fdec = s.fdec := rfl
@[simp] theorem drivePorts_env_sched : (drivePorts c rest s).env.sched = s.env.sched := rfl
@[simp] theorem drivePorts_env_offers : (drivePorts c rest s).env.offers = rest := rfl
@[simp] theorem drivePorts_env_opPort : (drivePorts c rest s).env.opPort = c.operand := rfl
@[simp] theorem drivePorts_env_winPort : (drivePorts c rest s).env.winPort = c.window := rfl
@[simp] theorem drivePorts_env_srcAnswers : (drivePorts c rest s).env.srcAnswers =
      s.env.srcAnswers := rfl
@[simp] theorem drivePorts_env_consumed : (drivePorts c rest s).env.consumed = s.env.consumed := rfl
@[simp] theorem drivePorts_env_snkAnswers : (drivePorts c rest s).env.snkAnswers =
      s.env.snkAnswers := rfl
@[simp] theorem drivePorts_env_sunk : (drivePorts c rest s).env.sunk = s.env.sunk := rfl
@[simp] theorem drivePorts_env_issued : (drivePorts c rest s).env.issued = s.env.issued := rfl
@[simp] theorem drivePorts_env_delivered : (drivePorts c rest s).env.delivered =
      s.env.delivered := rfl
@[simp] theorem drivePorts_env_freeCtr : (drivePorts c rest s).env.freeCtr = s.env.freeCtr := rfl
end

/-! ## popEvent -/

section
variable (rest : List Action) (s : State)

@[simp] theorem popEvent_profile : (popEvent rest s).profile = s.profile := rfl
@[simp] theorem popEvent_senc : (popEvent rest s).senc = s.senc := rfl
@[simp] theorem popEvent_sdec : (popEvent rest s).sdec = s.sdec := rfl
@[simp] theorem popEvent_fenc : (popEvent rest s).fenc = s.fenc := rfl
@[simp] theorem popEvent_fdec : (popEvent rest s).fdec = s.fdec := rfl
@[simp] theorem popEvent_env_sched : (popEvent rest s).env.sched = rest := rfl
@[simp] theorem popEvent_env_offers : (popEvent rest s).env.offers = s.env.offers := rfl
@[simp] theorem popEvent_env_opPort : (popEvent rest s).env.opPort = s.env.opPort := rfl
@[simp] theorem popEvent_env_winPort : (popEvent rest s).env.winPort = s.env.winPort := rfl
@[simp] theorem popEvent_env_srcAnswers : (popEvent rest s).env.srcAnswers = s.env.srcAnswers := rfl
@[simp] theorem popEvent_env_consumed : (popEvent rest s).env.consumed = s.env.consumed := rfl
@[simp] theorem popEvent_env_snkAnswers : (popEvent rest s).env.snkAnswers = s.env.snkAnswers := rfl
@[simp] theorem popEvent_env_sunk : (popEvent rest s).env.sunk = s.env.sunk := rfl
@[simp] theorem popEvent_env_issued : (popEvent rest s).env.issued = s.env.issued := rfl
@[simp] theorem popEvent_env_delivered : (popEvent rest s).env.delivered = s.env.delivered := rfl
@[simp] theorem popEvent_env_freeCtr : (popEvent rest s).env.freeCtr = s.env.freeCtr := rfl
end

/-! ## popSource -/

section
variable (rest : List SrcAnswer) (s : State)

@[simp] theorem popSource_profile : (popSource rest s).profile = s.profile := rfl
@[simp] theorem popSource_senc : (popSource rest s).senc = s.senc := rfl
@[simp] theorem popSource_sdec : (popSource rest s).sdec = s.sdec := rfl
@[simp] theorem popSource_fenc : (popSource rest s).fenc = s.fenc := rfl
@[simp] theorem popSource_fdec : (popSource rest s).fdec = s.fdec := rfl
@[simp] theorem popSource_env_sched : (popSource rest s).env.sched = s.env.sched := rfl
@[simp] theorem popSource_env_offers : (popSource rest s).env.offers = s.env.offers := rfl
@[simp] theorem popSource_env_opPort : (popSource rest s).env.opPort = s.env.opPort := rfl
@[simp] theorem popSource_env_winPort : (popSource rest s).env.winPort = s.env.winPort := rfl
@[simp] theorem popSource_env_srcAnswers : (popSource rest s).env.srcAnswers = rest := rfl
@[simp] theorem popSource_env_consumed : (popSource rest s).env.consumed = s.env.consumed := rfl
@[simp] theorem popSource_env_snkAnswers : (popSource rest s).env.snkAnswers = s.env.snkAnswers := rfl
@[simp] theorem popSource_env_sunk : (popSource rest s).env.sunk = s.env.sunk := rfl
@[simp] theorem popSource_env_issued : (popSource rest s).env.issued = s.env.issued := rfl
@[simp] theorem popSource_env_delivered : (popSource rest s).env.delivered = s.env.delivered := rfl
@[simp] theorem popSource_env_freeCtr : (popSource rest s).env.freeCtr = s.env.freeCtr := rfl
end

/-! ## popSink -/

section
variable (rest : List SinkAnswer) (s : State)

@[simp] theorem popSink_profile : (popSink rest s).profile = s.profile := rfl
@[simp] theorem popSink_senc : (popSink rest s).senc = s.senc := rfl
@[simp] theorem popSink_sdec : (popSink rest s).sdec = s.sdec := rfl
@[simp] theorem popSink_fenc : (popSink rest s).fenc = s.fenc := rfl
@[simp] theorem popSink_fdec : (popSink rest s).fdec = s.fdec := rfl
@[simp] theorem popSink_env_sched : (popSink rest s).env.sched = s.env.sched := rfl
@[simp] theorem popSink_env_offers : (popSink rest s).env.offers = s.env.offers := rfl
@[simp] theorem popSink_env_opPort : (popSink rest s).env.opPort = s.env.opPort := rfl
@[simp] theorem popSink_env_winPort : (popSink rest s).env.winPort = s.env.winPort := rfl
@[simp] theorem popSink_env_srcAnswers : (popSink rest s).env.srcAnswers = s.env.srcAnswers := rfl
@[simp] theorem popSink_env_consumed : (popSink rest s).env.consumed = s.env.consumed := rfl
@[simp] theorem popSink_env_snkAnswers : (popSink rest s).env.snkAnswers = rest := rfl
@[simp] theorem popSink_env_sunk : (popSink rest s).env.sunk = s.env.sunk := rfl
@[simp] theorem popSink_env_issued : (popSink rest s).env.issued = s.env.issued := rfl
@[simp] theorem popSink_env_delivered : (popSink rest s).env.delivered = s.env.delivered := rfl
@[simp] theorem popSink_env_freeCtr : (popSink rest s).env.freeCtr = s.env.freeCtr := rfl
end

/-! ## driveWindow -/

section
variable (win : Bytes 9) (s : State)

@[simp] theorem driveWindow_profile : (driveWindow win s).profile = s.profile := rfl
@[simp] theorem driveWindow_senc : (driveWindow win s).senc = s.senc := rfl
@[simp] theorem driveWindow_sdec : (driveWindow win s).sdec = s.sdec := rfl
@[simp] theorem driveWindow_fenc : (driveWindow win s).fenc = s.fenc := rfl
@[simp] theorem driveWindow_fdec : (driveWindow win s).fdec = s.fdec := rfl
@[simp] theorem driveWindow_env_sched : (driveWindow win s).env.sched = s.env.sched := rfl
@[simp] theorem driveWindow_env_offers : (driveWindow win s).env.offers = s.env.offers := rfl
@[simp] theorem driveWindow_env_opPort : (driveWindow win s).env.opPort = s.env.opPort := rfl
@[simp] theorem driveWindow_env_winPort : (driveWindow win s).env.winPort = win := rfl
@[simp] theorem driveWindow_env_srcAnswers : (driveWindow win s).env.srcAnswers = s.env.srcAnswers := rfl
@[simp] theorem driveWindow_env_consumed : (driveWindow win s).env.consumed = s.env.consumed := rfl
@[simp] theorem driveWindow_env_snkAnswers : (driveWindow win s).env.snkAnswers = s.env.snkAnswers := rfl
@[simp] theorem driveWindow_env_sunk : (driveWindow win s).env.sunk = s.env.sunk := rfl
@[simp] theorem driveWindow_env_issued : (driveWindow win s).env.issued = s.env.issued := rfl
@[simp] theorem driveWindow_env_delivered : (driveWindow win s).env.delivered = s.env.delivered := rfl
@[simp] theorem driveWindow_env_freeCtr : (driveWindow win s).env.freeCtr = s.env.freeCtr := rfl
end

/-! ## runFenc -/

section
variable (v : BitVec 64) (s : State)

@[simp] theorem runFenc_profile : (runFenc v s).profile = s.profile := rfl
@[simp] theorem runFenc_senc : (runFenc v s).senc = s.senc := rfl
@[simp] theorem runFenc_sdec : (runFenc v s).sdec = s.sdec := rfl
@[simp] theorem runFenc_fdec : (runFenc v s).fdec = s.fdec := rfl
@[simp] theorem runFenc_env : (runFenc v s).env = s.env := rfl
@[simp] theorem runFenc_fv : (runFenc v s).fenc.fv = v := rfl
@[simp] theorem runFenc_fbuf : (runFenc v s).fenc.fbuf = (fenc s.profile v).1 := rfl
@[simp] theorem runFenc_flen : (runFenc v s).fenc.flen = (fenc s.profile v).2 := rfl
@[simp] theorem runFenc_fValid : (runFenc v s).fenc.fValid = true := rfl
end

/-! ## finishFdec -/

section
variable (win : Bytes 9) (l : Nat) (q : BitVec 64) (s : State)

@[simp] theorem finishFdec_profile : (finishFdec win l q s).profile = s.profile := rfl
@[simp] theorem finishFdec_senc : (finishFdec win l q s).senc = s.senc := rfl
@[simp] theorem finishFdec_sdec : (finishFdec win l q s).sdec = s.sdec := rfl
@[simp] theorem finishFdec_fenc : (finishFdec win l q s).fenc = s.fenc := rfl
@[simp] theorem finishFdec_env : (finishFdec win l q s).env = s.env := rfl
@[simp] theorem finishFdec_fwin : (finishFdec win l q s).fdec.fwin = win := rfl
@[simp] theorem finishFdec_fout : (finishFdec win l q s).fdec.fout = valueOf s.profile l q := rfl
@[simp] theorem finishFdec_fdlen : (finishFdec win l q s).fdec.fdlen = BitVec.ofNat 4 l := rfl
@[simp] theorem finishFdec_gValid : (finishFdec win l q s).fdec.gValid = true := rfl
end

/-! ## raiseSdec -/

section
variable (x : Exc) (r : SdecRegs)

@[simp] theorem raiseSdec_dState : (raiseSdec x r).dState = .done := rfl
@[simp] theorem raiseSdec_dW : (raiseSdec x r).dW = r.dW := rfl
@[simp] theorem raiseSdec_acc : (raiseSdec x r).acc = 0 := rfl
@[simp] theorem raiseSdec_gi : (raiseSdec x r).gi = r.gi := rfl
@[simp] theorem raiseSdec_dStatus : (raiseSdec x r).dStatus = excStatus x := rfl
@[simp] theorem raiseSdec_dEtok : (raiseSdec x r).dEtok = excToken x := rfl
end

/-! ## startSdec -/

section
variable (w : Width) (r : SdecRegs)

@[simp] theorem startSdec_dState : (startSdec w r).dState = .read := rfl
@[simp] theorem startSdec_dW : (startSdec w r).dW = w := rfl
@[simp] theorem startSdec_acc : (startSdec w r).acc = 0 := rfl
@[simp] theorem startSdec_gi : (startSdec w r).gi = 0 := rfl
@[simp] theorem startSdec_dStatus : (startSdec w r).dStatus = r.dStatus := rfl
@[simp] theorem startSdec_dEtok : (startSdec w r).dEtok = r.dEtok := rfl
end

/-! ## raiseSenc -/

section
variable (x : Exc) (r : SencRegs)

@[simp] theorem raiseSenc_sState : (raiseSenc x r).sState = .done := rfl
@[simp] theorem raiseSenc_sW : (raiseSenc x r).sW = r.sW := rfl
@[simp] theorem raiseSenc_sVal : (raiseSenc x r).sVal = r.sVal := rfl
@[simp] theorem raiseSenc_obuf : (raiseSenc x r).obuf = r.obuf := rfl
@[simp] theorem raiseSenc_olen : (raiseSenc x r).olen = r.olen := rfl
@[simp] theorem raiseSenc_sStatus : (raiseSenc x r).sStatus = excStatus x := rfl
@[simp] theorem raiseSenc_sEtok : (raiseSenc x r).sEtok = excToken x := rfl
end

/-! ## finishSenc -/

section
variable  (r : SencRegs)

@[simp] theorem finishSenc_sState : (finishSenc r).sState = .done := rfl
@[simp] theorem finishSenc_sW : (finishSenc r).sW = r.sW := rfl
@[simp] theorem finishSenc_sVal : (finishSenc r).sVal = r.sVal := rfl
@[simp] theorem finishSenc_obuf : (finishSenc r).obuf = r.obuf := rfl
@[simp] theorem finishSenc_olen : (finishSenc r).olen = r.olen := rfl
@[simp] theorem finishSenc_sStatus : (finishSenc r).sStatus = .ok := rfl
@[simp] theorem finishSenc_sEtok : (finishSenc r).sEtok = ⟨0⟩ := rfl
end

/-! ## startSenc -/

section
variable (p : Profile) (w : Width) (v : BitVec 128) (r : SencRegs)

@[simp] theorem startSenc_sState : (startSenc p w v r).sState = .write := rfl
@[simp] theorem startSenc_sW : (startSenc p w v r).sW = w := rfl
@[simp] theorem startSenc_sVal : (startSenc p w v r).sVal = lowBits w v := rfl
@[simp] theorem startSenc_obuf : (startSenc p w v r).obuf =
      padBytes 19 (sencBytes p (lowBits w v)) := rfl
@[simp] theorem startSenc_olen : (startSenc p w v r).olen =
      BitVec.ofNat 5 (sencBytes p (lowBits w v)).length := rfl
@[simp] theorem startSenc_sStatus : (startSenc p w v r).sStatus = r.sStatus := rfl
@[simp] theorem startSenc_sEtok : (startSenc p w v r).sEtok = r.sEtok := rfl
end

end Sys2Proof.Machine
end

