-- ==== Sys2Proof/Laws/Operands.lean ====
section
/-! SUPPORT. What the operand functions give: lengths, bounds and values as numbers. -/

namespace Sys2Proof.Machine

theorem width_bits_bounds (w : Width) : 8 ≤ w.bits ∧ w.bits ≤ 128 := by cases w <;> decide

theorem lmax_bounds (w : Width) : 2 ≤ lmax w.bits ∧ lmax w.bits ≤ 19 ∧ w.bits ≤ 7 * lmax w.bits := by
  cases w <;> decide

@[simp] theorem padBytes_get (n : Nat) (l : List Byte) (k : Nat) (h : k < n) :
    (padBytes n l)[k] = l.getD k 0 := by
  simp [padBytes]

theorem padBytes_take (n : Nat) (l : List Byte) (h : l.length ≤ n) :
    (padBytes n l).toList.take l.length = l := by
  apply List.ext_getElem
  · simpa using h
  · intro k h1 h2
    have : k < n := by omega
    simp [h2]

@[simp] theorem lowBits_toNat (w : Width) (v : BitVec 128) :
    (lowBits w v).toNat = v.toNat % 2 ^ w.bits := by
  have h := (width_bits_bounds w).2
  have h1 : v.toNat % 2 ^ w.bits < 2 ^ 128 :=
    Nat.lt_of_lt_of_le (Nat.mod_lt _ (Nat.two_pow_pos _)) (Nat.pow_le_pow_right (by omega) h)
  rw [lowBits, BitVec.toNat_setWidth, BitVec.toNat_setWidth, Nat.mod_eq_of_lt h1]

theorem encodeLoop_length_le (p : Profile) (fuel : Nat) (n : BitVec 128) :
    (encodeLoop p fuel n).length ≤ fuel := by
  induction fuel generalizing n with
  | zero => simp [encodeLoop]
  | succ f ih =>
    simp only [encodeLoop]
    split
    · simp
    · simpa using ih (n >>> 7)

theorem encodeLoop_ne_nil (p : Profile) (fuel : Nat) (n : BitVec 128) :
    encodeLoop p (fuel + 1) n ≠ [] := by
  simp only [encodeLoop]
  split <;> simp

theorem sencBytes_length (p : Profile) (v : BitVec 128) :
    1 ≤ (sencBytes p v).length ∧ (sencBytes p v).length ≤ 19 :=
  ⟨List.length_pos_iff.2 (encodeLoop_ne_nil p 18 v), encodeLoop_length_le p 19 v⟩

@[simp] theorem startSenc_olen_toNat (p : Profile) (w : Width) (v : BitVec 128) (r : SencRegs) :
    (startSenc p w v r).olen.toNat = (sencBytes p (lowBits w v)).length := by
  have h := (sencBytes_length p (lowBits w v)).2
  simp only [startSenc_olen, BitVec.toNat_ofNat]
  omega

@[simp] theorem outBytes_startSenc (p : Profile) (w : Width) (v : BitVec 128) (r : SencRegs) :
    outBytes (startSenc p w v r) = sencBytes p (lowBits w v) := by
  rw [outBytes, startSenc_olen_toNat, startSenc_obuf]
  exact padBytes_take 19 _ (sencBytes_length p _).2

theorem group_lt (g : BitVec 7) : g.toNat < 128 := g.isLt

theorem groupOverflows_iff (w gi : Nat) (g : BitVec 7) :
    groupOverflows w gi g = true ↔ tooWide w gi g := by
  have hg : g ≠ 0 ↔ 0 < g.toNat := by
    rw [Nat.pos_iff_ne_zero, ne_eq, ne_eq, ← BitVec.toNat_inj]; rfl
  unfold groupOverflows tooWide
  simp only [ne_eq, decide_eq_true_eq]
  refine and_congr_right fun h => ?_
  have hpos := hg.1 h
  by_cases hw : w ≤ 7 * gi
  · have : 2 ^ w ≤ 2 ^ (7 * gi) := Nat.pow_le_pow_right (by omega) hw
    exact iff_of_true (.inl hw) (Nat.le_trans this (Nat.le_mul_of_pos_left _ hpos))
  · obtain ⟨d, rfl⟩ : ∃ d, w = 7 * gi + d := ⟨w - 7 * gi, by omega⟩
    have e : 7 * gi + d - 7 * gi = d := by omega
    rw [← BitVec.toNat_inj, e]
    simp only [hw, false_or, BitVec.toNat_ushiftRight, Nat.shiftRight_eq_div_pow]
    rw [Nat.pow_add, Nat.mul_comm (2 ^ (7 * gi)), Nat.mul_le_mul_right_iff (Nat.two_pow_pos _)]
    show ¬ g.toNat / 2 ^ d = 0 ↔ _
    rw [Nat.div_eq_zero_iff]
    have := Nat.two_pow_pos d
    omega

theorem placeGroup_toNat (w : Width) (gi : Nat) (g : BitVec 7)
    (h : g.toNat * 2 ^ (7 * gi) < 2 ^ w.bits) :
    (placeGroup w gi g).toNat = g.toNat * 2 ^ (7 * gi) := by
  have hw := width_bits_bounds w
  have h7 : 2 ^ 7 ≤ 2 ^ w.bits := Nat.pow_le_pow_right (by omega) (by omega)
  have hg := group_lt g
  have h128 : 2 ^ w.bits ≤ 2 ^ 128 := Nat.pow_le_pow_right (by omega) hw.2
  rw [placeGroup, BitVec.toNat_setWidth, BitVec.toNat_shiftLeft, BitVec.toNat_setWidth,
    Nat.shiftLeft_eq, Nat.mod_eq_of_lt (a := g.toNat) (by omega), Nat.mod_eq_of_lt h,
    Nat.mod_eq_of_lt (by omega)]

theorem off_step (l : Nat) : off (l + 2) = off (l + 1) + 2 ^ (7 * (l + 1)) := rfl

theorem off_mono (l : Nat) : off l ≤ off (l + 1) := by
  cases l with
  | zero => decide
  | succ n => exact Nat.le_add_right _ _

theorem onesFrom_le (k : Nat) (b : Byte) : onesFrom k b ≤ k := by
  induction k with
  | zero => simp [onesFrom]
  | succ n ih => simp only [onesFrom]; split <;> omega

theorem tierLength_bounds (p : Profile) (b : Byte) : 1 ≤ tierLength p b ∧ tierLength p b ≤ 9 := by
  have h1 := onesFrom_le 8 b
  have h2 := onesFrom_le 8 (b ^^^ 0xFF#8)
  unfold tierLength clz8 clo8
  split <;> omega

theorem tierOf_cases (p : Profile) (v : BitVec 64) :
    (∃ l, 1 ≤ l ∧ l ≤ 8 ∧ tierOf p v = l ∧ v.toNat < tierLimit p l ∧
      ∀ k, 1 ≤ k → k < l → tierLimit p k ≤ v.toNat) ∨
    (tierOf p v = 9 ∧ ∀ k, 1 ≤ k → k ≤ 8 → tierLimit p k ≤ v.toNat) := by
  unfold tierOf
  cases h : (([1, 2, 3, 4, 5, 6, 7, 8] : List Nat).find? fun l => v.toNat < tierLimit p l) with
  | none =>
    refine .inr ⟨rfl, fun k h1 h8 => ?_⟩
    rw [List.find?_eq_none] at h
    have := h k (by simp; omega)
    simpa using this
  | some l =>
    have hl := List.find?_some h
    have hm := List.mem_of_find?_eq_some h
    refine .inl ⟨l, ?_, ?_, rfl, by simpa using hl, fun k h1 hk => ?_⟩
    · simp at hm; omega
    · simp at hm; omega
    · rw [List.find?_eq_some_iff_append] at h
      obtain ⟨_, as, bs, hab, hno⟩ := h
      have hsorted : List.Pairwise (· < ·) ([1, 2, 3, 4, 5, 6, 7, 8] : List Nat) := by decide
      rw [hab, List.pairwise_append] at hsorted
      have hkm : k ∈ ([1, 2, 3, 4, 5, 6, 7, 8] : List Nat) := by simp at hm ⊢; omega
      rw [hab, List.mem_append, List.mem_cons] at hkm
      rcases hkm with hk' | hk' | hk'
      · simpa using hno k hk'
      · omega
      · have := (List.pairwise_cons.1 hsorted.2.1).1 k hk'
        omega

theorem tierOf_bounds (p : Profile) (v : BitVec 64) : 1 ≤ tierOf p v ∧ tierOf p v ≤ 9 := by
  rcases tierOf_cases p v with ⟨l, h1, h2, h3, -⟩ | ⟨h, -⟩ <;> omega

theorem bigEndian_length (n : Nat) (e : BitVec 64) : (bigEndian n e).length = n := by
  simp [bigEndian]

theorem fencBytes_length (p : Profile) (l : Nat) (q : BitVec 64) (h : l ≤ 9) :
    (fencBytes p l q).length = l := by
  unfold fencBytes
  split <;> simp [bigEndian_length]; omega

end Sys2Proof.Machine
end

