-- ==== Sys2Proof/Laws/Ops.lean ====
section
/-! SUPPORT. What each shared operation can do, said once. -/

namespace Sys2Proof.Machine

/-! ## The exceptions and the byte step -/

theorem byteStep_cases (p : Profile) (c : BitVec 1) (g : BitVec 7) (d : SdecRegs) :
    (tooWide d.dW.bits d.gi.toNat g ∧ byteStep p c g d = raiseSdec .overflow d) ∨
    (¬ tooWide d.dW.bits d.gi.toNat g ∧ ∃ acc,
      acc = (if 7 * d.gi.toNat < d.dW.bits then d.acc ||| placeGroup d.dW d.gi.toNat g else d.acc) ∧
      ((c = contLast p ∧
          byteStep p c g d = { d with dState := .done, acc := acc, dStatus := .ok, dEtok := ⟨0⟩ }) ∨
        (c ≠ contLast p ∧ byteStep p c g d = { d with
          acc := acc
          gi := BitVec.ofNat 5 (min (d.gi.toNat + 1) (lmax d.dW.bits)) }))) := by
  by_cases h : groupOverflows d.dW.bits d.gi.toNat g = true
  · exact .inl ⟨(groupOverflows_iff _ _ _).1 h, by simp [byteStep, h]⟩
  · refine .inr ⟨fun hw => h ((groupOverflows_iff _ _ _).2 hw), _, rfl, ?_⟩
    by_cases hc : c = contLast p
    · exact .inl ⟨hc, by simp [byteStep, h, hc]⟩
    · exact .inr ⟨hc, by simp [byteStep, h, hc]⟩

theorem contMore_ne_contLast (p : Profile) : contMore p ≠ contLast p := by
  unfold contMore contLast
  cases p.cont <;> decide

@[simp] theorem byteStep_dW (p : Profile) (c : BitVec 1) (g : BitVec 7) (d : SdecRegs) :
    (byteStep p c g d).dW = d.dW := by
  rcases byteStep_cases p c g d with ⟨-, h⟩ | ⟨-, acc, -, ⟨-, h⟩ | ⟨-, h⟩⟩ <;> simp [h]

/-- The value a group that fits adds: the accumulator's bits and the group's are disjoint
(42_std_decoder.md R143). -/
theorem acc_add_group (d : SdecRegs) (g : BitVec 7) (hacc : d.acc.toNat < 2 ^ (7 * d.gi.toNat))
    (hg : ¬ tooWide d.dW.bits d.gi.toNat g) :
    (if 7 * d.gi.toNat < d.dW.bits then d.acc ||| placeGroup d.dW d.gi.toNat g else d.acc).toNat
      = d.acc.toNat + g.toNat * 2 ^ (7 * d.gi.toNat) := by
  have hfit : g = 0 ∨ g.toNat * 2 ^ (7 * d.gi.toNat) < 2 ^ d.dW.bits := by
    by_cases h0 : g = 0
    · exact .inl h0
    · exact .inr (Nat.lt_of_not_le fun h => hg ⟨h0, h⟩)
  split
  · have hlt : g.toNat * 2 ^ (7 * d.gi.toNat) < 2 ^ d.dW.bits := by
      rcases hfit with rfl | h
      · simp
      · exact h
    rw [BitVec.toNat_or, placeGroup_toNat _ _ _ hlt, Nat.or_comm, ← Nat.shiftLeft_eq,
      ← Nat.shiftLeft_add_eq_or_of_lt hacc, Nat.add_comm]
  · rcases hfit with rfl | h
    · simp
    · have h1 : 2 ^ d.dW.bits ≤ 2 ^ (7 * d.gi.toNat) := Nat.pow_le_pow_right (by omega) (by omega)
      have h2 : g.toNat < 1 := by
        by_contra hc
        have := Nat.le_mul_of_pos_left (2 ^ (7 * d.gi.toNat)) (n := g.toNat) (by omega)
        omega
      have h3 : g.toNat = 0 := by omega
      simp [h3]

/-! ## The commands and the bytes: what each can do -/

theorem sencCommand_cases (w : Width) (s : State) :
    (s.senc.sState = .idle ∧ sencCommand w s =
      .next (issue [.sinkWrite (sencBytes s.profile (lowBits w s.env.opPort))]
        { s with senc := startSenc s.profile w s.env.opPort s.senc })) ∨
    (s.senc.sState ≠ .idle ∧ sencCommand w s = .next s) := by
  by_cases h : s.senc.sState = .idle
  · exact .inl ⟨h, by simp [sencCommand, acceptsCommand, h]⟩
  · exact .inr ⟨h, by simp [sencCommand, acceptsCommand, h]⟩

theorem sdecCommand_cases (w : Width) (s : State) :
    (s.sdec.dState = .idle ∧ sdecCommand w s =
      .next (issue [.srcRead] { s with sdec := startSdec w s.sdec })) ∨
    (s.sdec.dState ≠ .idle ∧ sdecCommand w s = .next s) := by
  by_cases h : s.sdec.dState = .idle
  · exact .inl ⟨h, by simp [sdecCommand, acceptsCommand, h]⟩
  · exact .inr ⟨h, by simp [sdecCommand, acceptsCommand, h]⟩

theorem deliverByte_cases (c : BitVec 1) (g : BitVec 7) (s : State) :
    (s.sdec.dState = .read ∧ deliverByte c g s =
      .next (issue (if (byteStep s.profile c g s.sdec).dState = .read then [.srcRead] else [])
        (advanceCursor { s with sdec := byteStep s.profile c g s.sdec }))) ∨
    (s.sdec.dState ≠ .read ∧ deliverByte c g s = .next s) := by
  by_cases h : s.sdec.dState = .read
  · exact .inl ⟨h, by simp [deliverByte, h]⟩
  · exact .inr ⟨h, by simp [deliverByte, h]⟩

/-! ## Results and the environment -/

theorem takeResult_cases (u : UnitId) (s : State) :
    (offeredResult u s = none ∧ takeResult u s = s) ∨
    ∃ r, offeredResult u s = some r ∧ takeResult u s =
      { releaseUnit u s with env := { s.env with delivered := s.env.delivered ++ [r] } } := by
  cases h : offeredResult u s with
  | none => exact .inl ⟨rfl, by simp [takeResult, h]⟩
  | some r => exact .inr ⟨r, rfl, by cases u <;> simp [takeResult, h, releaseUnit]⟩

theorem firstOffer_some {u : UnitId} {l rest : List Command} {c : Command}
    (h : firstOffer u l = some (c, rest)) :
    unitOfWord c.word = u ∧ ∃ before after, l = before ++ c :: after ∧ rest = before ++ after ∧
      ∀ d ∈ before, unitOfWord d.word ≠ u := by
  induction l generalizing rest with
  | nil => simp [firstOffer] at h
  | cons d ds ih =>
    by_cases hd : unitOfWord d.word = u
    · simp only [firstOffer, hd, if_true, Option.some.injEq, Prod.mk.injEq] at h
      obtain ⟨rfl, rfl⟩ := h
      exact ⟨hd, [], ds, rfl, rfl, by simp⟩
    · simp only [firstOffer, hd, if_false] at h
      cases hf : firstOffer u ds with
      | none => simp [hf] at h
      | some r =>
        obtain ⟨c', rest'⟩ := r
        simp only [hf, Option.map_some, Option.some.injEq, Prod.mk.injEq] at h
        obtain ⟨rfl, rfl⟩ := h
        obtain ⟨hu, before, after, rfl, rfl, hno⟩ := ih hf
        exact ⟨hu, d :: before, after, rfl, rfl, by simpa [hd] using hno⟩

theorem firstOffer_none {u : UnitId} {l : List Command} (h : firstOffer u l = none) :
    ∀ d ∈ l, unitOfWord d.word ≠ u := by
  induction l with
  | nil => simp
  | cons d ds ih =>
    by_cases hd : unitOfWord d.word = u
    · simp [firstOffer, hd] at h
    · simp only [firstOffer, hd, if_false, Option.map_eq_none_iff] at h
      simpa [hd] using ih h

theorem sinkAnswer_cases (a : SinkAnswer) (s : State) :
    (a = .ok ∧ sinkAnswer a s =
      { s with
        senc := finishSenc s.senc
        env := { s.env with sunk := s.env.sunk ++ outBytes s.senc } }) ∨
    ∃ e, a = .reject e ∧ sinkAnswer a s =
      { s with
        senc := raiseSenc (.io e) s.senc
        env := { s.env with
          sunk := s.env.sunk ++ (outBytes s.senc).take (Config.rejectKept s.env.freeCtr)
          freeCtr := s.env.freeCtr + 1 } } := by
  cases a with
  | ok => exact .inl ⟨rfl, rfl⟩
  | reject e => exact .inr ⟨e, rfl, rfl⟩

end Sys2Proof.Machine
end

