-- ==== Sys2Proof/Laws/PerInstr.lean ====
section
/-! SUPPORT. One lemma per instruction for the family PortOfUnit (LAWS.json). -/

namespace Sys2Proof.Laws.PortOfUnit

open Sys2Proof Sys2Proof.Machine

/-- The encoding of an instruction enters the core where the unit that carries it out reads it: a
command word has five bits and its `unit` field names that unit (30_encoding.md R101); a Standard VLQ
byte goes to `SDEC`, a Fast VLQ first byte to `FDEC`. -/
def Statement (i : Instr) : Prop :=
  ∀ p : Profile,
    match (encode p i).1 with
    | .command =>
      (encode p i).2.toNat < 32 ∧ unitOfWord ((encode p i).2.setWidth 5) = unitOf i
    | .source => unitOf i = .sdec
    | .window => unitOf i = .fdec

theorem senc8 : Statement .senc8 :=
  fun _ => (by decide : (0x00#8).toNat < 32 ∧ unitOfWord (0x00#8 |>.setWidth 5) = .senc)

theorem senc16 : Statement .senc16 :=
  fun _ => (by decide : (0x01#8).toNat < 32 ∧ unitOfWord (0x01#8 |>.setWidth 5) = .senc)

theorem senc32 : Statement .senc32 :=
  fun _ => (by decide : (0x02#8).toNat < 32 ∧ unitOfWord (0x02#8 |>.setWidth 5) = .senc)

theorem senc64 : Statement .senc64 :=
  fun _ => (by decide : (0x03#8).toNat < 32 ∧ unitOfWord (0x03#8 |>.setWidth 5) = .senc)

theorem senc128 : Statement .senc128 :=
  fun _ => (by decide : (0x04#8).toNat < 32 ∧ unitOfWord (0x04#8 |>.setWidth 5) = .senc)

theorem sdec8 : Statement .sdec8 :=
  fun _ => (by decide : (0x08#8).toNat < 32 ∧ unitOfWord (0x08#8 |>.setWidth 5) = .sdec)

theorem sdec16 : Statement .sdec16 :=
  fun _ => (by decide : (0x09#8).toNat < 32 ∧ unitOfWord (0x09#8 |>.setWidth 5) = .sdec)

theorem sdec32 : Statement .sdec32 :=
  fun _ => (by decide : (0x0A#8).toNat < 32 ∧ unitOfWord (0x0A#8 |>.setWidth 5) = .sdec)

theorem sdec64 : Statement .sdec64 :=
  fun _ => (by decide : (0x0B#8).toNat < 32 ∧ unitOfWord (0x0B#8 |>.setWidth 5) = .sdec)

theorem sdec128 : Statement .sdec128 :=
  fun _ => (by decide : (0x0C#8).toNat < 32 ∧ unitOfWord (0x0C#8 |>.setWidth 5) = .sdec)

theorem fenc : Statement .fenc :=
  fun _ => (by decide : (0x13#8).toNat < 32 ∧ unitOfWord (0x13#8 |>.setWidth 5) = .fenc)

theorem fdec : Statement .fdec :=
  fun _ => (by decide : (0x1B#8).toNat < 32 ∧ unitOfWord (0x1B#8 |>.setWidth 5) = .fdec)

theorem svlqByteMore (g : BitVec 7) : Statement (.svlqByteMore g) := fun _ => rfl

theorem svlqByteLast (g : BitVec 7) : Statement (.svlqByteLast g) := fun _ => rfl

theorem fvlqTier1 (h : Byte) : Statement (.fvlqTier1 h) := fun _ => rfl

theorem fvlqTier2 (h : Byte) : Statement (.fvlqTier2 h) := fun _ => rfl

theorem fvlqTier3 (h : Byte) : Statement (.fvlqTier3 h) := fun _ => rfl

theorem fvlqTier4 (h : Byte) : Statement (.fvlqTier4 h) := fun _ => rfl

theorem fvlqTier5 (h : Byte) : Statement (.fvlqTier5 h) := fun _ => rfl

theorem fvlqTier6 (h : Byte) : Statement (.fvlqTier6 h) := fun _ => rfl

theorem fvlqTier7 (h : Byte) : Statement (.fvlqTier7 h) := fun _ => rfl

theorem fvlqTier8 : Statement .fvlqTier8 := fun _ => rfl

theorem fvlqTier9 : Statement .fvlqTier9 := fun _ => rfl

end Sys2Proof.Laws.PortOfUnit
end

