-- ==== Sys2Proof/Laws/Pseudo.lean ====
section
/-! SUPPORT. What a pseudo-operation expands to: the word of its operation, and its operand. -/

namespace Sys2Proof.Machine

@[simp] theorem commandFor_operand (i : Instr) (v : BitVec 128) : (commandFor i v).operand = v := rfl

@[simp] theorem commandFor_window (i : Instr) (v : BitVec 128) :
    (commandFor i v).window = zeroBytes 9 := rfl

/-- The word a command carries spells the operation it is for. -/
@[simp] theorem commandFor_decodes (i : Instr) (v : BitVec 128)
    (h : (encode Config.defaultProfile i).1 = .command) :
    decodeCommand (commandFor i v).word = some i := by
  have word : (commandFor i v).word = (encode Config.defaultProfile i).2.setWidth 5 := rfl
  rw [word]
  cases i <;> simp only [encode, reduceCtorEq] at h ⊢ <;> decide

@[simp] theorem encode_sencOf (w : Width) : (encode Config.defaultProfile (sencOf w)).1 = .command := by
  cases w <;> rfl

@[simp] theorem encode_sdecOf (w : Width) : (encode Config.defaultProfile (sdecOf w)).1 = .command := by
  cases w <;> rfl

@[simp] theorem encode_fenc : (encode Config.defaultProfile .fenc).1 = .command := rfl

/-- An operand below `2^W` is sent as it is. -/
theorem operand_toNat (w : Width) (v : Nat) (h : v < 2 ^ w.bits) :
    ((BitVec.ofNat w.bits v).setWidth 128).toNat = v := by
  have h2 : 2 ^ w.bits ≤ 2 ^ 128 := by cases w <;> decide
  rw [BitVec.toNat_setWidth, BitVec.toNat_ofNat, Nat.mod_eq_of_lt h, Nat.mod_eq_of_lt (by omega)]

end Sys2Proof.Machine
end

