-- ==== Sys2Proof/Laws/Step.lean ====
section
/-! SUPPORT. What an instruction, a step and a run can do, said once. -/

namespace Sys2Proof.Machine

/-- What an instruction can do: each is one of five shared operations. -/
theorem exec_cases (i : Instr) (s : State) :
    (∃ w, (i, w) ∈ sencRows ∧ exec i s = sencCommand w s) ∨
    (∃ w, (i, w) ∈ sdecRows ∧ exec i s = sdecCommand w s) ∨
    (∃ c g, (i = .svlqByteMore g ∧ c = contMore s.profile ∨ i = .svlqByteLast g ∧
        c = contLast s.profile) ∧ exec i s = deliverByte c g s) ∨
    (i = .fenc ∧ exec i s = .next (runFenc (s.env.opPort.setWidth 64) s)) ∨
    (unitOf i = .fdec ∧ ∃ win l q, 1 ≤ l ∧ l ≤ 9 ∧ exec i s = .next (finishFdec win l q s)) := by
  cases i with
  | senc8 => exact .inl ⟨.w8, by simp [sencRows], rfl⟩
  | senc16 => exact .inl ⟨.w16, by simp [sencRows], rfl⟩
  | senc32 => exact .inl ⟨.w32, by simp [sencRows], rfl⟩
  | senc64 => exact .inl ⟨.w64, by simp [sencRows], rfl⟩
  | senc128 => exact .inl ⟨.w128, by simp [sencRows], rfl⟩
  | sdec8 => exact .inr (.inl ⟨.w8, by simp [sdecRows], rfl⟩)
  | sdec16 => exact .inr (.inl ⟨.w16, by simp [sdecRows], rfl⟩)
  | sdec32 => exact .inr (.inl ⟨.w32, by simp [sdecRows], rfl⟩)
  | sdec64 => exact .inr (.inl ⟨.w64, by simp [sdecRows], rfl⟩)
  | sdec128 => exact .inr (.inl ⟨.w128, by simp [sdecRows], rfl⟩)
  | fenc => exact .inr (.inr (.inr (.inl ⟨rfl, rfl⟩)))
  | fdec =>
    have h := tierLength_bounds s.profile s.env.winPort[0]
    exact .inr (.inr (.inr (.inr ⟨rfl, _, _, _, h.1, h.2, rfl⟩)))
  | svlqByteMore g => exact .inr (.inr (.inl ⟨_, g, .inl ⟨rfl, rfl⟩, rfl⟩))
  | svlqByteLast g => exact .inr (.inr (.inl ⟨_, g, .inr ⟨rfl, rfl⟩, rfl⟩))
  | fvlqTier1 h => exact .inr (.inr (.inr (.inr ⟨rfl, _, 1, _, by omega, by omega, rfl⟩)))
  | fvlqTier2 h => exact .inr (.inr (.inr (.inr ⟨rfl, _, 2, _, by omega, by omega, rfl⟩)))
  | fvlqTier3 h => exact .inr (.inr (.inr (.inr ⟨rfl, _, 3, _, by omega, by omega, rfl⟩)))
  | fvlqTier4 h => exact .inr (.inr (.inr (.inr ⟨rfl, _, 4, _, by omega, by omega, rfl⟩)))
  | fvlqTier5 h => exact .inr (.inr (.inr (.inr ⟨rfl, _, 5, _, by omega, by omega, rfl⟩)))
  | fvlqTier6 h => exact .inr (.inr (.inr (.inr ⟨rfl, _, 6, _, by omega, by omega, rfl⟩)))
  | fvlqTier7 h => exact .inr (.inr (.inr (.inr ⟨rfl, _, 7, _, by omega, by omega, rfl⟩)))
  | fvlqTier8 => exact .inr (.inr (.inr (.inr ⟨rfl, _, 8, _, by omega, by omega, rfl⟩)))
  | fvlqTier9 => exact .inr (.inr (.inr (.inr ⟨rfl, _, 9, _, by omega, by omega, rfl⟩)))

/-- No instruction stops. -/
theorem exec_next (i : Instr) (s : State) : ∃ t, exec i s = .next t := by
  rcases exec_cases i s with ⟨w, -, h⟩ | ⟨w, -, h⟩ | ⟨c, g, -, h⟩ | ⟨-, h⟩ | ⟨-, win, l, q, -, -, h⟩
  · rcases sencCommand_cases w s with ⟨-, h'⟩ | ⟨-, h'⟩ <;> exact ⟨_, h.trans h'⟩
  · rcases sdecCommand_cases w s with ⟨-, h'⟩ | ⟨-, h'⟩ <;> exact ⟨_, h.trans h'⟩
  · rcases deliverByte_cases c g s with ⟨-, h'⟩ | ⟨-, h'⟩ <;> exact ⟨_, h.trans h'⟩
  · exact ⟨_, h⟩
  · exact ⟨_, h⟩

/-- What a step that takes a next state can be: an idle machine; an event with no step; a command
accepted; a byte, a failure or a write answered; a result taken; a window. -/
theorem step_cases {s t : State} (h : step s = .next t) :
    (s.env.sched = [] ∧ t = s) ∨ ∃ a rest, s.env.sched = a :: rest ∧
      (t = popEvent rest s ∨
       (∃ u c others i, a = .accept u ∧ firstOffer u s.env.offers = some (c, others) ∧
          decodeCommand c.word = some i ∧ acceptsCommand u s = true ∧
          exec i (drivePorts c others (popEvent rest s)) = .next t) ∨
       (∃ b answers, a = .source ∧ s.sdec.dState = .read ∧ s.env.srcAnswers = .byte b :: answers ∧
          exec (decodeSource s.profile b) (popSource answers (popEvent rest s)) = .next t) ∨
       (∃ e answers, a = .source ∧ s.sdec.dState = .read ∧ s.env.srcAnswers = .fail e :: answers ∧
          t = sourceFails e (popSource answers (popEvent rest s))) ∨
       (∃ w answers, a = .sink ∧ s.senc.sState = .write ∧ s.env.snkAnswers = w :: answers ∧
          t = sinkAnswer w (popSink answers (popEvent rest s))) ∨
       (∃ u, a = .take u ∧ t = takeResult u (popEvent rest s)) ∨
       ∃ win, a = .window win ∧
          exec (decodeWindow s.profile win[0]) (driveWindow win (popEvent rest s)) = .next t) := by
  unfold step nextEvent at h
  split at h
  case h_1 hs =>
    injection h with h
    exact .inl ⟨hs, h.symm⟩
  case h_2 a rest hs =>
    refine .inr ⟨a, rest, hs, ?_⟩
    cases a with
    | accept u =>
      simp only [runAction, acceptEvent, popEvent_env_offers] at h
      split at h
      case h_1 => injection h with h; exact .inl h.symm
      case h_2 c others hf =>
        split at h
        case h_1 => nomatch h
        case h_2 i hi =>
          split at h
          case isTrue ha => exact .inr (.inl ⟨u, c, others, i, rfl, hf, hi, by cases u <;> exact ha, h⟩)
          case isFalse => injection h with h; exact .inl h.symm
    | source =>
      by_cases hr : s.sdec.dState = .read
      case neg =>
        simp [runAction, sourceEvent, hr] at h
        exact .inl h.symm
      case pos =>
        simp only [runAction, sourceEvent, popEvent_sdec, hr, if_true, popEvent_env_srcAnswers,
          popEvent_profile] at h
        split at h
        case h_1 => injection h with h; exact .inl h.symm
        case h_2 b answers hb => exact .inr (.inr (.inl ⟨b, answers, rfl, hr, hb, h⟩))
        case h_3 e answers he =>
          injection h with h
          exact .inr (.inr (.inr (.inl ⟨e, answers, rfl, hr, he, h.symm⟩)))
    | sink =>
      by_cases hw : s.senc.sState = .write
      case neg =>
        simp [runAction, sinkEvent, hw] at h
        exact .inl h.symm
      case pos =>
        simp only [runAction, sinkEvent, popEvent_senc, hw, if_true, popEvent_env_snkAnswers] at h
        split at h
        case h_1 => injection h with h; exact .inl h.symm
        case h_2 w answers hb =>
          injection h with h
          exact .inr (.inr (.inr (.inr (.inl ⟨w, answers, rfl, hw, hb, h.symm⟩))))
    | take u =>
      simp only [runAction] at h
      injection h with h
      exact .inr (.inr (.inr (.inr (.inr (.inl ⟨u, rfl, h.symm⟩)))))
    | window win =>
      exact .inr (.inr (.inr (.inr (.inr (.inr ⟨win, rfl, h⟩)))))

/-- One step, then the rest of the run. -/
theorem run_succ {s t : State} (n : Nat) (h : step s = .next t) :
    Host.Core.run core (n + 1) s = Host.Core.run core n t := by
  have h' : core.step s = .next t := h
  simp only [Host.Core.run, h']

/-- A property that every step keeps holds after every run. -/
theorem run_keeps {P : State → Prop} (hstep : ∀ s t, P s → step s = .next t → P t) (n : Nat)
    {s t : State} (hs : P s) (h : Host.Core.run core n s = .next t) : P t := by
  induction n generalizing s with
  | zero =>
    injection h with h
    exact h ▸ hs
  | succ n ih =>
    cases hq : step s with
    | next s' => exact ih (hstep s s' hs hq) (run_succ n hq ▸ h)
    | fault r => exact nomatch r
    | refused r =>
      have : Host.Core.run core (n + 1) s = .refused r := by
        have h' : core.step s = .refused r := hq
        simp only [Host.Core.run, h']
      rw [this] at h
      nomatch h

end Sys2Proof.Machine
end

