-- ==== Sys2Proof/Tests/Slice0.lean ====
section
/-! SUPPORT. Tests, each with the place of spec/ its expected result is taken from, and for each
statement with hypotheses a witness that meets them. -/

namespace Sys2Proof.Tests

open Sys2Proof Sys2Proof.Machine

/-! ## Small states -/

/-- A profile by its three straps. -/
def prof (c : PCont) (x : PPrefix) (t : PTier) : Profile := ⟨c, x, t⟩

/-- Bytes from numbers. -/
def bytes (l : List Nat) : List Byte := l.map (BitVec.ofNat 8)

/-- A window from numbers, zero-filled. -/
def window (l : List Nat) : Bytes 9 := padBytes 9 (bytes l)

/-- Reset, with an operand and a window on the ports. -/
def withPorts (v : BitVec 128) (w : Bytes 9) : State :=
  { State.reset with env := { Env.reset with opPort := v, winPort := w } }

/-- Reset, with `SDEC` reading at width `w`, accumulator `acc` and group index `gi`. -/
def reading (w : Width) (acc : BitVec 128) (gi : BitVec 5) : State :=
  { State.reset with sdec := { SdecRegs.reset with dState := .read, dW := w, acc := acc, gi := gi } }

/-- A state with another schedule. -/
def scheduled (as : List Action) (s : State) : State :=
  { s with env := { s.env with sched := as } }

/-- A state with offers. -/
def offering (cs : List Command) (s : State) : State :=
  { s with env := { s.env with offers := cs } }

/-- A state with source answers. -/
def answering (l : List SrcAnswer) (s : State) : State :=
  { s with env := { s.env with srcAnswers := l } }

/-- A state with sink answers. -/
def sinking (l : List SinkAnswer) (s : State) : State :=
  { s with env := { s.env with snkAnswers := l } }

/-- A state under another profile. -/
def under (p : Profile) (s : State) : State := { s with profile := p }

/-- The next state of an outcome, or `s` where there is none. -/
def nextOr (s : State) : Host.Outcome State Fault Refusal → State
  | .next t => t
  | .fault _ => s
  | .refused _ => s

/-- The state after an instruction. -/
def after (i : Instr) (s : State) : State := nextOr s (exec i s)

/-- The state after a step. -/
def afterStep (s : State) : State := nextOr s (step s)

/-- `SENC.16 0xEA60` accepted. -/
def writing : State := after .senc16 (withPorts 0xEA60 (window []))

/-! ## WellFormed: one ill-formed term for each check (30_encoding.md R91) -/

theorem test_wf_tier1_refuses : (Instr.fvlqTier1 0x80).wf = false := by decide
theorem test_wf_tier2_refuses : (Instr.fvlqTier2 0x40).wf = false := by decide
theorem test_wf_tier3_refuses : (Instr.fvlqTier3 0x20).wf = false := by decide
theorem test_wf_tier4_refuses : (Instr.fvlqTier4 0x10).wf = false := by decide
theorem test_wf_tier5_refuses : (Instr.fvlqTier5 0x08).wf = false := by decide
theorem test_wf_tier6_refuses : (Instr.fvlqTier6 0x04).wf = false := by decide
theorem test_wf_tier7_refuses : (Instr.fvlqTier7 0x02).wf = false := by decide
theorem test_wf_tier7_accepts : (Instr.fvlqTier7 0x01).wf = true := by decide

/-! ## Decoding, from words written out by the spec -/

/-- 95_test_vectors.md section 7: command words in the order of the opcode table. -/
theorem test_decode_commands :
    [0b00000#5, 0b00001#5, 0b00010#5, 0b00011#5, 0b00100#5].map decodeCommand =
      [some .senc8, some .senc16, some .senc32, some .senc64, some .senc128] ∧
    [0b01000#5, 0b01001#5, 0b01010#5, 0b01011#5, 0b01100#5].map decodeCommand =
      [some .sdec8, some .sdec16, some .sdec32, some .sdec64, some .sdec128] ∧
    [0b10011#5, 0b11011#5].map decodeCommand = [some .fenc, some .fdec] := by decide

/-- 95_test_vectors.md section 7: words next to valid ones are invalid; 30_encoding.md R101: a byte
with a bit above the five of a command word is none. -/
theorem test_decode_reserved :
    [0x05#5, 0x07#5, 0x0D#5, 0x10#5, 0x14#5, 0x18#5, 0x1C#5].map decodeCommand =
      [none, none, none, none, none, none, none] ∧
    decode Config.defaultProfile .command 0x20 = none := by decide

/-- 30_encoding.md R81: `1ggggggg` and `0ggggggg`, and the inverse under `LAST_SET`. -/
theorem test_decode_source :
    decodeSource Config.defaultProfile 0b11010100 = .svlqByteMore 0b1010100 ∧
    decodeSource Config.defaultProfile 0b00000011 = .svlqByteLast 0b0000011 ∧
    decodeSource (prof .lastSet .ones .offset) 0b10000011 = .svlqByteLast 0b0000011 := by decide

/-- 30_encoding.md R91: the nine patterns of the `ONES` column. -/
theorem test_decode_window :
    (bytes [0b01000001, 0b10100001, 0b11010001, 0b11101001, 0b11110101, 0b11111010, 0b11111101,
        0b11111110, 0b11111111]).map (decodeWindow Config.defaultProfile) =
      [.fvlqTier1 0b1000001, .fvlqTier2 0b100001, .fvlqTier3 0b10001, .fvlqTier4 0b1001,
        .fvlqTier5 0b101, .fvlqTier6 0b10, .fvlqTier7 0b1, .fvlqTier8, .fvlqTier9] := by decide

/-- 30_encoding.md R91: the nine patterns of the `ZEROS` column. -/
theorem test_decode_window_zeros :
    (bytes [0b11000001, 0b01100001, 0b00110001, 0b00011001, 0b00001101, 0b00000110, 0b00000011,
        0b00000001, 0b00000000]).map (decodeWindow (prof .moreSet .zeros .offset)) =
      [.fvlqTier1 0b1000001, .fvlqTier2 0b100001, .fvlqTier3 0b10001, .fvlqTier4 0b1001,
        .fvlqTier5 0b101, .fvlqTier6 0b10, .fvlqTier7 0b1, .fvlqTier8, .fvlqTier9] := by decide

/-- 44_fast_decoder.md R192: the length at both ends of each range, `ONES`. -/
theorem test_length_ones :
    (bytes [0x00, 0x7F, 0x80, 0xBF, 0xC0, 0xDF, 0xE0, 0xEF, 0xF0, 0xF7, 0xF8, 0xFB, 0xFC, 0xFD, 0xFE,
        0xFF]).map (tierLength (prof .moreSet .ones .offset)) =
      [1, 1, 2, 2, 3, 3, 4, 4, 5, 5, 6, 6, 7, 7, 8, 9] := by decide

/-- 44_fast_decoder.md R192: the length at both ends of each range, `ZEROS`. -/
theorem test_length_zeros :
    (bytes [0x80, 0xFF, 0x40, 0x7F, 0x20, 0x3F, 0x10, 0x1F, 0x08, 0x0F, 0x04, 0x07, 0x02, 0x03, 0x01,
        0x00]).map (tierLength (prof .moreSet .zeros .offset)) =
      [1, 1, 2, 2, 3, 3, 4, 4, 5, 5, 6, 6, 7, 7, 8, 9] := by decide

/-! ## SENC: 95_test_vectors.md section 2 -/

theorem test_senc8 : outBytes (after .senc8 (withPorts 0xFFA5 (window []))).senc =
    bytes [0xA5, 0x01] := by decide
theorem test_senc16 : outBytes writing.senc = bytes [0xE0, 0xD4, 0x03] := by decide
theorem test_senc16_phase : writing.senc.sState = .write ∧ writing.senc.olen = 3 ∧
    writing.env.issued = [.sinkWrite (bytes [0xE0, 0xD4, 0x03])] := by decide
theorem test_senc32 : outBytes (after .senc32 (withPorts 0xDEADBEEF (window []))).senc =
    bytes [0xEF, 0xFD, 0xB6, 0xF5, 0x0D] := by decide
theorem test_senc64 : outBytes (after .senc64 (withPorts 0xFFFFFFFFFFFFFFFF (window []))).senc =
    bytes (List.replicate 9 0xFF ++ [0x01]) := by decide
theorem test_senc128 : outBytes (after .senc128 (withPorts (-1) (window []))).senc =
    bytes (List.replicate 18 0xFF ++ [0x03]) := by decide

/-- 95_test_vectors.md section 3. -/
theorem test_senc16_last_set :
    outBytes (after .senc16 (under (prof .lastSet .ones .offset) (withPorts 0xEA60 (window [])))).senc =
      bytes [0x60, 0x54, 0x83] := by decide

/-- 95_test_vectors.md section 8, P1: the sink answers `Ok`. -/
theorem test_sink_ok :
    (afterStep (scheduled [.sink] (sinking [.ok] writing))).senc.sState = .done ∧
    (afterStep (scheduled [.sink] (sinking [.ok] writing))).env.sunk = bytes [0xE0, 0xD4, 0x03] := by
  decide

/-- 95_test_vectors.md section 8, P6: the sink rejects. What it kept is open, so only `SENC` is
looked at. -/
theorem test_sink_reject :
    (afterStep (scheduled [.sink] (sinking [.reject ⟨7⟩] writing))).senc.sStatus = .io ∧
    (afterStep (scheduled [.sink] (sinking [.reject ⟨7⟩] writing))).senc.sEtok = ⟨7⟩ ∧
    outBytes (afterStep (scheduled [.sink] (sinking [.reject ⟨7⟩] writing))).senc =
      bytes [0xE0, 0xD4, 0x03] := by decide

/-! ## SDEC: 95_test_vectors.md sections 4 and 8 -/

theorem test_sdec8 : (after .sdec8 State.reset).sdec.dW = .w8 := by decide
theorem test_sdec16 : (after .sdec16 State.reset).sdec.dState = .read ∧
    (after .sdec16 State.reset).sdec.dW = .w16 := by decide
theorem test_sdec32 : (after .sdec32 State.reset).sdec.dW = .w32 := by decide
theorem test_sdec64 : (after .sdec64 State.reset).sdec.dW = .w64 := by decide
theorem test_sdec128 : (after .sdec128 State.reset).sdec.dW = .w128 ∧
    (after .sdec128 State.reset).env.issued = [.srcRead] := by decide

/-- The worked trace of `SDEC.16` on `E0 D4 03`, second byte. -/
theorem test_more : (after (.svlqByteMore 0x54) (reading .w16 0x60 1)).sdec.acc = 0x2A60 ∧
    (after (.svlqByteMore 0x54) (reading .w16 0x60 1)).sdec.gi = 2 := by decide

/-- `SDEC.8` on `FF 82 00`: overflow in a non-terminal byte. -/
theorem test_more_overflows :
    (after (.svlqByteMore 2) (reading .w8 0x7F 1)).sdec = ⟨.done, .w8, 0, 1, .overflow, ⟨0⟩⟩ := by
  decide

/-- The worked trace of `SDEC.16` on `E0 D4 03`, third byte. -/
theorem test_last : (after (.svlqByteLast 3) (reading .w16 0x2A60 2)).sdec =
    ⟨.done, .w16, 0xEA60, 2, .ok, ⟨0⟩⟩ := by decide

/-- `SDEC.8` on `80 02`: one bit too wide, in the terminal byte. -/
theorem test_last_overflows :
    (after (.svlqByteLast 2) (reading .w8 0 1)).sdec.dStatus = .overflow := by decide

/-- `SDEC.16` on `E0 D4` then end. -/
theorem test_source_fails :
    (afterStep (scheduled [.source] (answering [.fail ⟨9⟩] (reading .w16 0x2A60 2)))).sdec =
      ⟨.done, .w16, 0, 2, .io, ⟨9⟩⟩ := by decide

/-! ## FENC and FDEC: 95_test_vectors.md sections 5 and 6 -/

theorem test_fenc : (after .fenc (withPorts 0xEA60 (window []))).fenc =
    ⟨0xEA60, window [0xC0, 0xA9, 0xE0], 3, true⟩ := by decide
theorem test_fenc_top : (after .fenc (withPorts 0xFFFFFFFFFFFFFFFF (window []))).fenc.fbuf =
    window [0xFF, 0xFE, 0xFD, 0xFB, 0xF7, 0xEF, 0xDF, 0xBF, 0x7F] := by decide

/-- 95_test_vectors.md section 5, the profiles `ONES`, `ABSOLUTE` and `ZEROS`, `OFFSET` at `2^56`. -/
theorem test_fenc_profiles :
    (fenc (prof .moreSet .ones .absolute) 0x100000000000000).1 = window [0xFF, 0x01] ∧
    (fenc (prof .moreSet .zeros .offset) 0x100000000000000).1 =
      window [0x01, 0xFD, 0xFB, 0xF7, 0xEF, 0xDF, 0xBF, 0x80] := by decide

theorem test_fdec :
    (after .fdec (withPorts 0 (window [0xF0, 0xCE, 0x8D, 0x7E, 0x6F, 1, 2, 3, 4]))).fdec.fout =
      0xDEADBEEF := by decide
theorem test_fdec_wraps :
    (after .fdec (withPorts 0 (window (List.replicate 9 0xFF)))).fdec.fout = 0x010204081020407F := by
  decide

/-! The rows `FVLQ.TIER`, on windows of 95_test_vectors.md section 6, 44_fast_decoder.md R199 and
43_fast_encoder.md R174, whose first byte the row itself supplies. -/

theorem test_tier1 : (after (.fvlqTier1 0x7F) (withPorts 0 (window [0, 0xAA]))).fdec.fout = 0x7F := by
  decide
theorem test_tier2 : (after (.fvlqTier2 0) (withPorts 0 (window [0, 0x05, 0xAA]))).fdec.fout = 0x85 := by
  decide
theorem test_tier3 : (after (.fvlqTier3 0) (withPorts 0 (window [0, 0xA9, 0xE0]))).fdec.fout = 0xEA60 := by
  decide
theorem test_tier4 :
    (after (.fvlqTier4 0xF) (withPorts 0 (window [0, 0xFF, 0xFF, 0xFF]))).fdec.fout = 0x1020407F := by
  decide
theorem test_tier5 :
    (after (.fvlqTier5 0) (withPorts 0 (window [0, 0xCE, 0x8D, 0x7E, 0x6F]))).fdec.fout =
      0xDEADBEEF := by decide
theorem test_tier6 :
    (after (.fvlqTier6 3) (withPorts 0 (window (List.replicate 9 0xFF)))).fdec.fout =
      0x04081020407F := by decide
theorem test_tier7 :
    (after (.fvlqTier7 0) (withPorts 0 (window []))).fdec.fout = 0x040810204080 := by decide
theorem test_tier8 :
    (after .fvlqTier8 (withPorts 0 (window (List.replicate 8 0xFF)))).fdec.fout =
      0x010204081020407F := by decide
theorem test_tier9 :
    (after .fvlqTier9 (withPorts 0 (window [0, 0xFE, 0xFD, 0xFB, 0xF7, 0xEF, 0xDF, 0xBF, 0x7F]))).fdec =
      ⟨window [0xFF, 0xFE, 0xFD, 0xFB, 0xF7, 0xEF, 0xDF, 0xBF, 0x7F], 0xFFFFFFFFFFFFFFFF, 9, true⟩ := by
  decide

/-! ## The table's words run as the first event after reset -/

theorem test_fetch_command : (afterStep (State.reset.withFetchWord 8 0x01)).senc.sState = .write := by
  decide
theorem test_fetch_window : (afterStep (State.reset.withFetchWord 8 0xC0)).fdec.fdlen = 3 := by decide
theorem test_fetch_source :
    (afterStep (State.reset.withFetchWord 8 0x55)).sdec.acc = 0x55 ∧
    (afterStep (State.reset.withFetchWord 8 0x55)).sdec.dState = .done := by decide

/-! ## Witnesses: a concrete state and operands that meet the hypotheses of each statement -/

/-- The offer of `SENC.16 0xEA60`. -/
def sencOffer : Command := ⟨0b00001, 0xEA60, window []⟩

/-- `SENC` looks at its port and finds that offer. -/
def offered : State := scheduled [.accept .senc] (offering [sencOffer] State.reset)

theorem witness_DecodeOfEncodeIsTheInstruction : (Instr.fvlqTier3 0x1F).wf = true := by decide

theorem witness_EncodeOfDecodeIsTheByte :
    decode (prof .moreSet .ones .offset) .window 0xDF = some (.fvlqTier3 0x1F) := by decide

theorem witness_StepRunsTheDecodedCommand :
    offered.env.sched = .accept .senc :: [] ∧
    firstOffer .senc offered.env.offers = some (sencOffer, []) ∧
    decodeCommand sencOffer.word = some .senc16 ∧ acceptsCommand .senc offered = true := by decide

theorem witness_StepRunsTheDecodedSourceByte :
    let s := scheduled [.source] (answering [.byte 0xE0] (reading .w16 0 0))
    s.env.sched = .source :: [] ∧ s.sdec.dState = .read ∧ s.env.srcAnswers = .byte 0xE0 :: [] ∧
      decode s.profile .source 0xE0 = some (.svlqByteMore 0x60) := by decide

theorem witness_StepRunsTheDecodedWindow :
    let s := scheduled [.window (window [0xC0, 0xA9, 0xE0])] State.reset
    s.env.sched = .window (window [0xC0, 0xA9, 0xE0]) :: [] ∧
      decode s.profile .window (window [0xC0, 0xA9, 0xE0])[0] = some (.fvlqTier3 0) := by decide

theorem witness_BusyUnitLeavesTheOffer :
    let s := scheduled [.accept .senc] (offering [sencOffer] writing)
    s.env.sched = .accept .senc :: [] ∧ firstOffer .senc s.env.offers = some (sencOffer, []) ∧
      decodeCommand sencOffer.word = some .senc16 ∧ s.senc.sState ≠ .idle := by decide

theorem witness_BusyUnitLeavesTheOffer_sdec :
    let c : Command := ⟨0b01001, 0, window []⟩
    let s := scheduled [.accept .sdec] (offering [c] (reading .w16 0 0))
    firstOffer .sdec s.env.offers = some (c, []) ∧ decodeCommand c.word = some .sdec16 ∧
      s.sdec.dState ≠ .idle := by decide

theorem witness_ReservedCommandIsRefused :
    let c : Command := ⟨0b00101, 0, window []⟩
    let s := scheduled [.accept .senc] (offering [c] State.reset)
    s.env.sched = .accept .senc :: [] ∧ firstOffer .senc s.env.offers = some (c, []) ∧
      decodeCommand c.word = none := by decide

theorem witness_StepStopsOnlyOnReservedWords_refused :
    step (scheduled [.accept .senc] (offering [⟨0b00101, 0, window []⟩] State.reset)) =
      .refused (.reservedCommand 0b00101) := rfl

theorem witness_StepStopsOnlyOnReservedWords_legal : offersLegal offered := by
  intro c hc
  have h : c = sencOffer := by simpa [offered, scheduled, offering] using hc
  subst h
  decide

/-- An idle `SENC`, for the statements of every width, and the next state of one. -/
theorem witness_senc_rows :
    (∀ r ∈ sencRows, (r.1, r.2) ∈ sencRows) ∧ (.senc16, .w16) ∈ sencRows ∧
    (withPorts 0xEA60 (window [])).senc.sState = .idle ∧ writing.senc.sState ≠ .idle := by decide

theorem witness_senc_next : exec .senc16 (withPorts 0xEA60 (window [])) = .next writing := rfl

/-- `SencLengthIsMinimalAndBounded`: an operand with bit `W-1` set, and one without. -/
theorem witness_SencLengthIsMinimalAndBounded :
    (withPorts 0xEA60 (window [])).env.opPort.getLsbD 15 = true ∧ writing.senc.olen = 3 ∧
    (after .senc16 (withPorts 0x3FFF (window []))).senc.olen = 2 ∧
    (after .senc16 (withPorts 0x4000 (window []))).senc.olen = 3 ∧
    2 ^ (7 * 2) ≤ (after .senc16 (withPorts 0x4000 (window []))).senc.sVal.toNat := by decide

theorem witness_SencOneWriteAndItsAnswer :
    let s := scheduled [.sink] (sinking [.ok] writing)
    let r := scheduled [.sink] (sinking [.reject ⟨7⟩] writing)
    s.env.sched = .sink :: [] ∧ s.senc.sState = .write ∧ s.env.snkAnswers = .ok :: [] ∧
      r.env.sched = .sink :: [] ∧ r.senc.sState = .write ∧ r.env.snkAnswers = .reject ⟨7⟩ :: [] := by
  decide

theorem witness_SencOneWriteAndItsAnswer_step :
    writing.senc.sState ≠ .idle ∧ step writing = .next writing := ⟨by decide, rfl⟩

theorem witness_SdecStartsReading :
    (.sdec16, .w16) ∈ sdecRows ∧ State.reset.sdec.dState = .idle := by decide

theorem witness_BusySdecChangesNothing :
    (.sdec16, .w16) ∈ sdecRows ∧ (reading .w16 0 0).sdec.dState ≠ .idle := by decide

/-- The registers of the second byte of `SDEC.16` on `E0 D4 03` meet the invariant's part. -/
theorem sdecGood_reading : SdecGood (reading .w16 0x60 1).sdec :=
  ⟨by decide, by decide, by decide, by decide, by decide⟩

theorem witness_SdecByteThatFits :
    (reading .w16 0x60 1).sdec.dState = .read ∧ SdecGood (reading .w16 0x60 1).sdec ∧
    ¬ tooWide (reading .w16 0x60 1).sdec.dW.bits (reading .w16 0x60 1).sdec.gi.toNat 0x54 :=
  ⟨by decide, sdecGood_reading, fun h => absurd h.2 (by decide)⟩

theorem witness_SdecByteFrame :
    exec (.svlqByteMore 0x54) (reading .w16 0x60 1) =
      .next (after (.svlqByteMore 0x54) (reading .w16 0x60 1)) ∧
    (reading .w16 0x60 1).sdec.dState = .read ∧ State.reset.sdec.dState ≠ .read ∧
    exec (.svlqByteMore 0x54) State.reset = .next State.reset :=
  ⟨rfl, by decide, by decide, rfl⟩

/-- The two sides of the overflow test, next to each other: `g = 1` and `g = 2` at bit 7 of 8. -/
theorem witness_OverflowCauseExactly :
    tooWide 8 1 2 ∧ ¬ tooWide 8 1 1 ∧ (reading .w8 0 1).sdec.dState = .read :=
  ⟨⟨by decide, by decide⟩, fun h => absurd h.2 (by decide), by decide⟩

theorem witness_OverflowCauseExactly_step :
    let s := scheduled [.source] (answering [.byte 0x02] (reading .w8 0 1))
    step s = .next (afterStep s) ∧ (afterStep s).sdec.dStatus = .overflow ∧
      s.sdec.dStatus ≠ .overflow := ⟨rfl, by decide, by decide⟩

theorem witness_SourceFailureEndsTheDecode :
    let s := scheduled [.source] (answering [.fail ⟨9⟩] (reading .w16 0x60 1))
    s.env.sched = .source :: [] ∧ s.sdec.dState = .read ∧ s.env.srcAnswers = .fail ⟨9⟩ :: [] := by
  decide

theorem witness_IoCauseExactly_step :
    let s := scheduled [.source] (answering [.fail ⟨9⟩] (reading .w16 0x60 1))
    step s = .next (afterStep s) ∧ (afterStep s).sdec.dStatus = .io := ⟨rfl, by decide⟩

theorem witness_SdecReadsOneByteAtATime :
    let s := scheduled [.source] (answering [.byte 0xE0] (reading .w16 0 0))
    s.env.sched = .source :: [] ∧ s.sdec.dState = .read ∧ s.env.srcAnswers = .byte 0xE0 :: [] ∧
      contBit 0xE0 = contMore s.profile ∧ contBit 0x03 = contLast s.profile := by decide

/-- A step outside READ, and one in READ that issues a read. -/
theorem witness_SdecReadsOneByteAtATime_step :
    let s := scheduled [.source] (answering [.byte 0xE0] (reading .w16 0 0))
    step s = .next (afterStep s) ∧ (afterStep s).env.issued = s.env.issued ++ [.srcRead] ∧
      step State.reset = .next State.reset ∧ State.reset.sdec.dState ≠ .read :=
  ⟨rfl, by decide, rfl, by decide⟩

theorem witness_SourceEventOutsideReadChangesNothing :
    let s := scheduled [.source] (answering [.byte 0xE0] State.reset)
    s.env.sched = .source :: [] ∧ s.sdec.dState ≠ .read := by decide

theorem witness_SdecRefinesItsSummary :
    (.sdec16, .w16) ∈ sdecRows ∧ State.reset.sdec.dState = .idle ∧
    sdecSummary Config.defaultProfile 16 ((bytes [0xE0, 0xD4, 0x03]).map .byte) = some (.ok 60000, 3) ∧
    sdecSummary Config.defaultProfile 8 ((bytes [0xE0, 0xD4, 0x03]).map .byte) = some (.overflow, 2) ∧
    sdecSummary Config.defaultProfile 16 ((bytes [0xE0, 0xD4]).map .byte ++ [.fail ⟨9⟩]) =
      some (.io ⟨9⟩, 2) := by decide

theorem witness_SdecRefinesItsSummary_exec :
    exec .sdec16 State.reset = .next (after .sdec16 State.reset) := rfl

/-- `StandardRoundTrip` and `NarrowDecodeOverflows`: 60000 written at 16 bits fits 32 and not 8. -/
theorem witness_StandardRoundTrip :
    (.senc16, .w16) ∈ sencRows ∧ (.sdec32, .w32) ∈ sdecRows ∧ (.sdec8, .w8) ∈ sdecRows ∧
    (withPorts 0xEA60 (window [])).senc.sState = .idle ∧
    (withPorts 0xEA60 (window [])).sdec.dState = .idle ∧
    writing.senc.sVal.toNat < 2 ^ Width.w32.bits ∧ 2 ^ Width.w8.bits ≤ writing.senc.sVal.toNat := by
  decide

theorem witness_StandardRoundTrip_exec :
    exec .senc16 (withPorts 0xEA60 (window [])) = .next writing ∧
    exec .sdec32 writing = .next (after .sdec32 writing) ∧
    exec .sdec8 writing = .next (after .sdec8 writing) := ⟨rfl, rfl, rfl⟩

/-- `FENC` of 60000 done. -/
def encoded : State := after .fenc (withPorts 0xEA60 (window []))

theorem witness_fenc_next : exec .fenc (withPorts 0xEA60 (window [])) = .next encoded := rfl

/-- The clauses of `FencPicksTheSmallestTier`: one byte, two bytes and nine bytes, at the values where
they meet (95_test_vectors.md E4). -/
theorem witness_FencPicksTheSmallestTier :
    (after .fenc (withPorts 0x7F (window []))).fenc.flen = 1 ∧
    (after .fenc (withPorts 0x80 (window []))).fenc.flen = 2 ∧
    (after .fenc (withPorts 0xFFFFFFFFFFFFFFFF (window []))).fenc.flen = 9 := by decide

theorem witness_FdecResult_example :
    (withPorts 0 (padBytes 9 [0xC0, 0xA9, 0xE0])).profile = Config.defaultProfile ∧
    (withPorts 0 (padBytes 9 [0xC0, 0xA9, 0xE0])).env.winPort = padBytes 9 [0xC0, 0xA9, 0xE0] := by
  decide

theorem witness_fdec_next :
    exec .fdec (withPorts 0 (padBytes 9 [0xC0, 0xA9, 0xE0])) =
      .next (after .fdec (withPorts 0 (padBytes 9 [0xC0, 0xA9, 0xE0]))) := rfl

theorem witness_TierRowResults :
    (.fvlqTier3 0x1F, 3) ∈ tierRows 0x1F ∧ (Instr.fvlqTier3 0x1F).wf = true := by decide

theorem witness_FdecDoesWhatItsTierRowDoes :
    decode Config.defaultProfile .window (window [0xC0, 0xA9, 0xE0])[0] = some (.fvlqTier3 0) := by
  decide

/-- Two windows that agree on the first three bytes and on no other. -/
theorem witness_FdecIgnoresTheTail :
    (after .fdec (withPorts 0 (window [0xC0, 0xA9, 0xE0]))).fdec.fdlen = 3 ∧
    ∀ k : Fin 9, k.val < 3 →
      (window [0xC0, 0xA9, 0xE0])[k] = (window [0xC0, 0xA9, 0xE0, 1, 2, 3, 4, 5, 6])[k] := by decide

/-- The first wasted window (44_fast_decoder.md R199). -/
theorem witness_WastedWindowsWrap :
    let w := window [0xFF, 0xFE, 0xFD, 0xFB, 0xF7, 0xEF, 0xDF, 0xBF, 0x80]
    Config.defaultProfile.tier = .offset ∧ tierLength Config.defaultProfile w[0] = 9 ∧
      0xFEFDFBF7EFDFBF80 ≤ payloadNat 9 w := by decide

theorem witness_FastUnitsFrame :
    exec (.fvlqTier3 0) State.reset = .next (after (.fvlqTier3 0) State.reset) := rfl

theorem witness_FastCodecProperties :
    (after .fenc State.reset).fenc.fv = 0 ∧ (after .senc8 State.reset).senc.sVal = 0 ∧
    encoded.fenc.fv.toNat ≤ encoded.fenc.fv.toNat := by decide

theorem witness_FastRoundTripWithAnyFiller :
    ∀ k : Fin 9, k.val < encoded.fenc.flen.toNat →
      (withPorts 0 (window [0xC0, 0xA9, 0xE0, 1, 2, 3, 4, 5, 6])).env.winPort[k] =
        encoded.fenc.fbuf[k] := by decide

/-- Each clause of `HostTakesResults` on the registers of `SENC` and `SDEC`: done with each status. -/
theorem witness_HostTakesResults_offered :
    (sinkAnswer .ok writing).senc.sState = .done ∧ (sinkAnswer .ok writing).senc.sStatus = .ok ∧
    (sinkAnswer (.reject ⟨7⟩) writing).senc.sState = .done ∧
    (sinkAnswer (.reject ⟨7⟩) writing).senc.sStatus = .io ∧
    (after (.svlqByteLast 3) (reading .w16 0x2A60 2)).sdec.dStatus = .ok ∧
    (after (.svlqByteLast 2) (reading .w8 0 1)).sdec.dStatus = .overflow ∧
    (sourceFails ⟨9⟩ (reading .w8 0 1)).sdec.dStatus = .io ∧
    (sourceFails ⟨9⟩ (reading .w8 0 1)).sdec.dState = .done := by decide

/-- A result is offered, and one is not. -/
theorem witness_HostTakesResults :
    offeredResult .fenc encoded = some (.fenc (window [0xC0, 0xA9, 0xE0]) 3) ∧
    offeredResult .fdec encoded = none ∧
    (scheduled [.take .fenc] encoded).env.sched = .take .fenc :: [] ∧
    offeredResult .sdec (after (.svlqByteLast 3) (reading .w16 0x2A60 2)) =
      some (.sdecOk .w16 0xEA60) := by decide

/-- The invariant holds in a state with a decode in progress, and that state takes a step. -/
theorem witness_StepKeepsTheInvariant :
    Inv (reading .w16 0x60 1) ∧ step (reading .w16 0x60 1) = .next (reading .w16 0x60 1) :=
  ⟨⟨⟨by decide, by decide, by decide, by decide, by decide, by decide⟩, sdecGood_reading,
    ⟨by decide, by decide, by decide⟩, ⟨by decide, by decide⟩⟩, rfl⟩

theorem witness_StrapsAreConstant :
    Host.Core.run core 1 State.reset = .next State.reset := rfl

/-- `SENC` accepts a command and the source answers `SDEC`, in this order. -/
theorem witness_UnitsAreIndependent :
    agentOf (.accept .senc) ≠ agentOf .source ∧
    ∃ t, Host.Core.run core 2 (scheduled [.accept .senc, .source]
      (offering [sencOffer] (answering [.byte 0xE0] (reading .w16 0 0)))) = .next t :=
  ⟨by decide, _, rfl⟩

/-- Two states that agree on profile and ports and differ in what earlier operations left. -/
theorem witness_EarlierOperationsLeaveNoTrace :
    encoded.profile = (withPorts 0xEA60 (window [])).profile ∧
    encoded.env.opPort = (withPorts 0xEA60 (window [])).env.opPort ∧
    encoded.env.winPort = (withPorts 0xEA60 (window [])).env.winPort ∧
    encoded ≠ withPorts 0xEA60 (window []) ∧ encoded.senc.sState = .idle ∧
    encoded.sdec.dState = .idle := by decide

theorem witness_EarlierOperationsLeaveNoTrace_run :
    ∃ u, Host.Core.run core 1 (withAnswers [.byte 0x03] (after .sdec16 State.reset)) = .next u :=
  ⟨_, rfl⟩

/-- The two ends of the signed range of 8 bits. -/
theorem witness_SignedPseudoOperations :
    -(2 : Int) ^ (Width.w8.bits - 1) ≤ -128 ∧ (-128 : Int) < 2 ^ (Width.w8.bits - 1) ∧
    -(2 : Int) ^ (Width.w8.bits - 1) ≤ 127 ∧ (127 : Int) < 2 ^ (Width.w8.bits - 1) := by decide

/-- The largest operand of a narrow width, and of the widest. -/
theorem witness_UnsignedPseudoOperations :
    255 < 2 ^ Width.w8.bits ∧ Width.w8.bits < 64 ∧ 2 ^ 128 - 1 < 2 ^ Width.w128.bits := by decide

/-- 95_test_vectors.md section 8, P5: `SENC.I32 -2` is `SENC.32 0xFFFFFFFE`. -/
theorem test_pseudo_signed :
    expand (.sencI .w32 (-2)) = ⟨0b00010, 0xFFFFFFFE, zeroBytes 9⟩ ∧
    readSigned .w32 0xFFFFFFFE = -2 := by decide

end Sys2Proof.Tests
end

section
/-! PROOFS. 10_state.md R29 and R31: a source event outside READ, and that no operation leaves a trace
in a later one. -/

namespace Sys2Proof.Machine

/-! ## Commands by their rows -/

theorem exec_sencRow {i : Instr} {w : Width} (h : (i, w) ∈ sencRows) (s : State) :
    exec i s = sencCommand w s := by
  simp only [sencRows, List.mem_cons, Prod.mk.injEq, List.not_mem_nil, or_false] at h
  rcases h with ⟨rfl, rfl⟩ | ⟨rfl, rfl⟩ | ⟨rfl, rfl⟩ | ⟨rfl, rfl⟩ | ⟨rfl, rfl⟩ <;> rfl

theorem exec_sdecRow {i : Instr} {w : Width} (h : (i, w) ∈ sdecRows) (s : State) :
    exec i s = sdecCommand w s := by
  simp only [sdecRows, List.mem_cons, Prod.mk.injEq, List.not_mem_nil, or_false] at h
  rcases h with ⟨rfl, rfl⟩ | ⟨rfl, rfl⟩ | ⟨rfl, rfl⟩ | ⟨rfl, rfl⟩ | ⟨rfl, rfl⟩ <;> rfl

/-- A `SENC` command accepted in IDLE (10_state.md R28). -/
theorem exec_senc_of_idle {i : Instr} {w : Width} {s t : State} (hi : (i, w) ∈ sencRows)
    (hidle : s.senc.sState = .idle) (h : exec i s = .next t) :
    t = issue [.sinkWrite (sencBytes s.profile (lowBits w s.env.opPort))]
      { s with senc := startSenc s.profile w s.env.opPort s.senc } := by
  rcases sencCommand_cases w s with ⟨-, hc⟩ | ⟨hbusy, -⟩
  · rw [exec_sencRow hi, hc, Host.Outcome.next.injEq] at h
    exact h.symm
  · exact absurd hidle hbusy

/-- An `SDEC` command accepted in IDLE (10_state.md R29). -/
theorem exec_sdec_of_idle {i : Instr} {w : Width} {s t : State} (hi : (i, w) ∈ sdecRows)
    (hidle : s.sdec.dState = .idle) (h : exec i s = .next t) :
    t = issue [.srcRead] { s with sdec := startSdec w s.sdec } := by
  rcases sdecCommand_cases w s with ⟨-, hc⟩ | ⟨hbusy, -⟩
  · rw [exec_sdecRow hi, hc, Host.Outcome.next.injEq] at h
    exact h.symm
  · exact absurd hidle hbusy

/-- `FENC` writes all its registers from the operand and the profile (43_fast_encoder.md R178). -/
theorem fenc_regs_of_exec {s t : State} (h : exec .fenc s = .next t) :
    t.fenc =
      { fv := s.env.opPort.setWidth 64
        fbuf := (fenc s.profile (s.env.opPort.setWidth 64)).1
        flen := (fenc s.profile (s.env.opPort.setWidth 64)).2
        fValid := true } := by
  injection h with h
  rw [← h, runFenc]

/-- `FDEC` writes all its registers from the window and the profile (44_fast_decoder.md R200). -/
theorem fdec_regs_of_exec {s t : State} (h : exec .fdec s = .next t) :
    t.fdec =
      { fwin := s.env.winPort
        fout := (fdec s.profile s.env.winPort).1
        fdlen := (fdec s.profile s.env.winPort).2
        gValid := true } := by
  injection h with h
  rw [← h, finishFdec, fdec]

/-! ## One source event -/

theorem step_source {s : State} {rest : List Action} (h : s.env.sched = .source :: rest) :
    step s = sourceEvent (popEvent rest s) := by
  simp only [step, nextEvent, h, runAction]

/-- Outside READ no read is outstanding, and the source is not asked (10_state.md R29). -/
theorem step_source_of_not_read {s : State} {rest : List Action}
    (h : s.env.sched = .source :: rest) (hread : s.sdec.dState ≠ .read) :
    step s = .next (popEvent rest s) := by
  simp [step_source h, sourceEvent, hread]

theorem step_source_of_no_answer {s : State} {rest : List Action}
    (h : s.env.sched = .source :: rest) (hans : s.env.srcAnswers = []) :
    step s = .next (popEvent rest s) := by
  simp [step_source h, sourceEvent, hans]

/-- Settles O49: `SDEC` has no step for the source's event outside READ. -/
theorem sourceEventOutsideReadChangesNothing :
    Obligations.SourceEventOutsideReadChangesNothing :=
  fun _ _ hsched hread => step_source_of_not_read hsched hread

/-- The continuation bit has two values (30_encoding.md R81). -/
theorem eq_contMore_of_ne_contLast {p : Profile} {c : BitVec 1} (h : c ≠ contLast p) :
    c = contMore p := by
  unfold contLast at h
  unfold contMore
  revert c
  cases p.cont <;> decide

/-- A source byte does what `deliverByte` does with its continuation bit and its group, whichever of
the two rows it is (30_encoding.md R81). -/
theorem exec_decodeSource (b : Byte) (s : State) :
    exec (decodeSource s.profile b) s = deliverByte (contBit b) (groupBits b) s := by
  by_cases hlast : contBit b = contLast s.profile
  · rw [decodeSource, if_pos hlast, hlast]
    rfl
  · rw [decodeSource, if_neg hlast, eq_contMore_of_ne_contLast hlast]
    rfl

/-- The registers of `SDEC` after the source's answer in READ (42_std_decoder.md R143, R146). -/
def sdecAnswered (p : Profile) (d : SdecRegs) : SrcAnswer → SdecRegs
  | .byte b => byteStep p (contBit b) (groupBits b) d
  | .fail e => raiseSdec (.io e) d

/-- What an answer in READ does to all that later source events depend on. -/
theorem step_source_of_answer {s : State} {rest : List Action} {a : SrcAnswer}
    {answers : List SrcAnswer} (h : s.env.sched = .source :: rest) (hread : s.sdec.dState = .read)
    (hans : s.env.srcAnswers = a :: answers) :
    ∃ t, step s = .next t ∧ t.profile = s.profile ∧ t.env.sched = rest ∧
      t.env.srcAnswers = answers ∧ t.sdec = sdecAnswered s.profile s.sdec a := by
  rw [step_source h]
  cases a with
  | byte b =>
    have hevent : sourceEvent (popEvent rest s) =
        deliverByte (contBit b) (groupBits b) (popSource answers (popEvent rest s)) := by
      rw [← exec_decodeSource]
      simp [sourceEvent, hread, hans]
    rcases deliverByte_cases (contBit b) (groupBits b) (popSource answers (popEvent rest s)) with
      ⟨-, hd⟩ | ⟨hbusy, -⟩
    · exact ⟨_, hevent.trans hd, rfl, rfl, rfl, rfl⟩
    · exact absurd hread hbusy
  | fail e =>
    exact ⟨sourceFails e (popSource answers (popEvent rest s)),
      by simp [sourceEvent, hread, hans], rfl, rfl, rfl, rfl⟩

/-! ## Two decoders that read the same answers -/

/-- Two `SDEC` units that differ at most in status and token, and not in those once the operation is
done: what an earlier operation left there is still to be overwritten. -/
structure SdecAgree (d d' : SdecRegs) : Prop where
  phase : d.dState = d'.dState
  width : d.dW = d'.dW
  acc : d.acc = d'.acc
  index : d.gi = d'.gi
  done_eq : d.dState = .done → d = d'

theorem SdecAgree.refl (d : SdecRegs) : SdecAgree d d := ⟨rfl, rfl, rfl, rfl, fun _ => rfl⟩

theorem startSdec_agree (w : Width) (d d' : SdecRegs) :
    SdecAgree (startSdec w d) (startSdec w d') :=
  ⟨rfl, rfl, rfl, rfl, by simp⟩

/-- An exception writes the registers in which the two may differ. -/
theorem raiseSdec_congr (x : Exc) {d d' : SdecRegs} (h : SdecAgree d d') :
    raiseSdec x d = raiseSdec x d' := by
  simp [raiseSdec, h.width, h.index]

/-- A byte that ends the operation writes status and token; one that does not leaves them alone. -/
theorem byteStep_agree (p : Profile) (c : BitVec 1) (g : BitVec 7) {d d' : SdecRegs}
    (h : SdecAgree d d') (hread : d.dState = .read) :
    SdecAgree (byteStep p c g d) (byteStep p c g d') := by
  simp only [byteStep, raiseSdec_congr _ h, h.width, h.acc, h.index]
  split
  · exact .refl _
  · split
    · exact .refl _
    · exact ⟨h.phase, rfl, rfl, rfl, by simp [hread]⟩

theorem sdecAnswered_agree (p : Profile) (a : SrcAnswer) {d d' : SdecRegs} (h : SdecAgree d d')
    (hread : d.dState = .read) : SdecAgree (sdecAnswered p d a) (sdecAnswered p d' a) := by
  cases a with
  | byte b => exact byteStep_agree p _ _ h hread
  | fail e =>
    simp only [sdecAnswered, raiseSdec_congr _ h]
    exact .refl _

/-- Two machines whose next events are the source's, with the same answers to come, and whose `SDEC`
units agree; nothing else of the two states is compared. -/
structure SourceAlike (s s' : State) : Prop where
  profile : s.profile = s'.profile
  sched : s.env.sched = s'.env.sched
  only_source : ∀ a ∈ s.env.sched, a = .source
  answers : s.env.srcAnswers = s'.env.srcAnswers
  sdec : SdecAgree s.sdec s'.sdec

theorem withAnswers_alike (answers : List SrcAnswer) {s s' : State} (hp : s.profile = s'.profile)
    (hd : SdecAgree s.sdec s'.sdec) :
    SourceAlike (withAnswers answers s) (withAnswers answers s') :=
  ⟨hp, rfl, fun _ ha => List.eq_of_mem_replicate ha, rfl, hd⟩

theorem SourceAlike.popEvent {s s' : State} {rest : List Action} (h : SourceAlike s s')
    (hrest : s.env.sched = .source :: rest) : SourceAlike (popEvent rest s) (popEvent rest s') :=
  ⟨h.profile, rfl, fun a ha => h.only_source a (hrest ▸ List.mem_cons_of_mem _ ha), h.answers,
    h.sdec⟩

/-- Machines that are alike take a step to machines that are alike. -/
theorem SourceAlike.step {s s' : State} (h : SourceAlike s s') :
    ∃ t t', step s = .next t ∧ step s' = .next t' ∧ SourceAlike t t' := by
  cases hs : s.env.sched with
  | nil =>
    have hs' : s'.env.sched = [] := h.sched ▸ hs
    exact ⟨s, s', by simp [Machine.step, nextEvent, hs], by simp [Machine.step, nextEvent, hs'], h⟩
  | cons a rest =>
    obtain rfl : a = .source := h.only_source a (by simp [hs])
    have hs' : s'.env.sched = .source :: rest := h.sched ▸ hs
    by_cases hread : s.sdec.dState = .read
    case neg =>
      have hread' : s'.sdec.dState ≠ .read := h.sdec.phase ▸ hread
      exact ⟨_, _, step_source_of_not_read hs hread, step_source_of_not_read hs' hread',
        h.popEvent hs⟩
    case pos =>
      have hread' : s'.sdec.dState = .read := h.sdec.phase ▸ hread
      cases ha : s.env.srcAnswers with
      | nil =>
        have ha' : s'.env.srcAnswers = [] := h.answers ▸ ha
        exact ⟨_, _, step_source_of_no_answer hs ha, step_source_of_no_answer hs' ha',
          h.popEvent hs⟩
      | cons a answers =>
        have ha' : s'.env.srcAnswers = a :: answers := h.answers ▸ ha
        obtain ⟨t, ht, hp, hsched, hans, hsdec⟩ := step_source_of_answer hs hread ha
        obtain ⟨t', ht', hp', hsched', hans', hsdec'⟩ := step_source_of_answer hs' hread' ha'
        refine ⟨t, t', ht, ht', ?_, ?_, ?_, ?_, ?_⟩
        · rw [hp, hp', h.profile]
        · rw [hsched, hsched']
        · intro b hb
          exact h.only_source b (by simp [hs, ← hsched, hb])
        · rw [hans, hans']
        · rw [hsdec, hsdec', ← h.profile]
          exact sdecAnswered_agree _ a h.sdec hread

/-- A relation that the steps of two machines keep holds after runs of the same length. -/
theorem run_keeps_relation {R : State → State → Prop}
    (hstep : ∀ s s', R s s' → ∃ t t', step s = .next t ∧ step s' = .next t' ∧ R t t') (n : Nat)
    {s s' u u' : State} (hR : R s s') (h : Host.Core.run core n s = .next u)
    (h' : Host.Core.run core n s' = .next u') : R u u' := by
  induction n generalizing s s' with
  | zero =>
    injection h with h
    injection h' with h'
    exact h ▸ h' ▸ hR
  | succ n ih =>
    obtain ⟨t, t', ht, ht', hRt⟩ := hstep s s' hR
    exact ih hRt (run_succ n ht ▸ h) (run_succ n ht' ▸ h')

/-! ## No operation leaves a trace (10_state.md R31) -/

/-- The sink's answer writes the two registers a `SENC` command leaves as they were. -/
theorem sinkAnswer_senc_of_startSenc {p : Profile} {w : Width} {v : BitVec 128} {r r' : SencRegs}
    {t t' : State} (a : SinkAnswer) (ht : t.senc = startSenc p w v r)
    (ht' : t'.senc = startSenc p w v r') : (sinkAnswer a t).senc = (sinkAnswer a t').senc := by
  cases a with
  | ok =>
    show finishSenc t.senc = finishSenc t'.senc
    rw [ht, ht']
    rfl
  | reject e =>
    show raiseSenc (.io e) t.senc = raiseSenc (.io e) t'.senc
    rw [ht, ht']
    rfl

theorem senc_leaves_no_trace (i : Instr) (w : Width) (s s' t t' : State) (a : SinkAnswer)
    (hi : (i, w) ∈ sencRows) (hp : s.profile = s'.profile) (hop : s.env.opPort = s'.env.opPort)
    (hidle : s.senc.sState = .idle) (hidle' : s'.senc.sState = .idle) (h : exec i s = .next t)
    (h' : exec i s' = .next t') :
    t.senc.obuf = t'.senc.obuf ∧ t.senc.olen = t'.senc.olen ∧
      (sinkAnswer a t).senc = (sinkAnswer a t').senc := by
  have ht : t.senc = startSenc s.profile w s.env.opPort s.senc := by
    rw [exec_senc_of_idle hi hidle h, issue_senc]
  have ht' : t'.senc = startSenc s.profile w s.env.opPort s'.senc := by
    rw [exec_senc_of_idle hi hidle' h', issue_senc, hp, hop]
  exact ⟨by simp [ht, ht'], by simp [ht, ht'], sinkAnswer_senc_of_startSenc a ht ht'⟩

theorem sdec_leaves_no_trace (i : Instr) (w : Width) (s s' t t' : State) (answers : List SrcAnswer)
    (u u' : State) (hi : (i, w) ∈ sdecRows) (hp : s.profile = s'.profile)
    (hidle : s.sdec.dState = .idle) (hidle' : s'.sdec.dState = .idle) (h : exec i s = .next t)
    (h' : exec i s' = .next t')
    (hu : Host.Core.run core answers.length (withAnswers answers t) = .next u)
    (hu' : Host.Core.run core answers.length (withAnswers answers t') = .next u') :
    SdecAgree u.sdec u'.sdec := by
  have hstart : SourceAlike (withAnswers answers t) (withAnswers answers t') := by
    rw [exec_sdec_of_idle hi hidle h, exec_sdec_of_idle hi hidle' h']
    exact withAnswers_alike answers hp (startSdec_agree w _ _)
  exact (run_keeps_relation (fun _ _ => SourceAlike.step) _ hstart hu hu').sdec

theorem fenc_leaves_no_trace {s s' t t' : State} (hp : s.profile = s'.profile)
    (hop : s.env.opPort = s'.env.opPort) (h : exec .fenc s = .next t)
    (h' : exec .fenc s' = .next t') : t.fenc = t'.fenc := by
  rw [fenc_regs_of_exec h, fenc_regs_of_exec h', hp, hop]

theorem fdec_leaves_no_trace {s s' t t' : State} (hp : s.profile = s'.profile)
    (hwin : s.env.winPort = s'.env.winPort) (h : exec .fdec s = .next t)
    (h' : exec .fdec s' = .next t') : t.fdec = t'.fdec := by
  rw [fdec_regs_of_exec h, fdec_regs_of_exec h', hp, hwin]

/-- Settles O47: a command or the end of its operation overwrites every register its result shows. -/
theorem earlierOperationsLeaveNoTrace : Obligations.EarlierOperationsLeaveNoTrace := by
  refine ⟨senc_leaves_no_trace, ?_, fun s s' t t' hp hop hwin =>
    ⟨fenc_leaves_no_trace hp hop, fdec_leaves_no_trace hp hwin⟩⟩
  intro i w s s' t t' answers u u' hi hp hidle hidle' h h' hu hu'
  have hagree := sdec_leaves_no_trace i w s s' t t' answers u u' hi hp hidle hidle' h h' hu hu'
  exact ⟨hagree.phase, hagree.acc, hagree.index, hagree.done_eq⟩

end Sys2Proof.Machine
end

section
/-! PROOFS. 20_memory.md R53: `SDEC` reads in stream order, one byte at a time, and never past the end
of an encoding. -/

namespace Sys2Proof.Machine

/-! ## A byte that `SDEC` reads -/

/-- A byte that is terminal or overflows ends the operation (42_std_decoder.md R143, R145). -/
theorem byteStep_dState_of_ends {p : Profile} {c : BitVec 1} {g : BitVec 7} {d : SdecRegs}
    (h : c = contLast p ∨ tooWide d.dW.bits d.gi.toNat g) : (byteStep p c g d).dState = .done := by
  rcases byteStep_cases p c g d with ⟨-, hd⟩ | ⟨hfits, acc, -, ⟨-, hd⟩ | ⟨hmore, hd⟩⟩
  · simp [hd]
  · simp [hd]
  · exact (h.elim hmore hfits).elim

/-- A byte that neither ends the encoding nor overflows leaves the phase as it is
(42_std_decoder.md R143). -/
theorem byteStep_dState_of_more {p : Profile} {c : BitVec 1} {g : BitVec 7} {d : SdecRegs}
    (hc : c = contMore p) (hfits : ¬ tooWide d.dW.bits d.gi.toNat g) :
    (byteStep p c g d).dState = d.dState := by
  rcases byteStep_cases p c g d with ⟨hwide, -⟩ | ⟨-, acc, -, ⟨hlast, -⟩ | ⟨-, hd⟩⟩
  · exact absurd hwide hfits
  · exact absurd (hc.symm.trans hlast) (contMore_ne_contLast p)
  · simp [hd]

/-- The source's byte in READ: the next state, with the next read issued when the operation goes on
(42_std_decoder.md R142, R143). -/
theorem step_source_of_byte {s : State} {rest : List Action} {b : Byte} {answers : List SrcAnswer}
    (h : s.env.sched = .source :: rest) (hread : s.sdec.dState = .read)
    (hans : s.env.srcAnswers = .byte b :: answers) :
    step s = .next
      (issue
        (if (byteStep s.profile (contBit b) (groupBits b) s.sdec).dState = .read then [.srcRead]
          else [])
        (advanceCursor { popSource answers (popEvent rest s) with
          sdec := byteStep s.profile (contBit b) (groupBits b) s.sdec })) := by
  have hevent : step s =
      deliverByte (contBit b) (groupBits b) (popSource answers (popEvent rest s)) := by
    rw [step_source h, ← exec_decodeSource]
    simp [sourceEvent, hread, hans]
  rcases deliverByte_cases (contBit b) (groupBits b) (popSource answers (popEvent rest s)) with
    ⟨-, hd⟩ | ⟨hbusy, -⟩
  · exact hevent.trans hd
  · exact absurd hread hbusy

/-! ## Reads over every step of the machine -/

/-- How a transition from `s` to `t` may treat the source: it takes nothing from it outside READ, and
issues at most one read, by acceptance or after one byte. -/
structure ReadsInTurn (s t : State) : Prop where
  unread : s.sdec.dState ≠ .read →
    t.env.srcAnswers = s.env.srcAnswers ∧ t.env.consumed = s.env.consumed
  issued : ∃ more, t.env.issued = s.env.issued ++ more ∧
    (Request.srcRead ∈ more → more = [.srcRead] ∧ t.sdec.dState = .read ∧
      (s.sdec.dState = .idle ∨ s.sdec.dState = .read ∧ t.env.consumed = s.env.consumed + 1))

/-- A transition that issues nothing reads in turn when it leaves the source alone outside READ. -/
theorem ReadsInTurn.of_issued_eq {s t : State} (hissued : t.env.issued = s.env.issued)
    (hunread : s.sdec.dState ≠ .read →
      t.env.srcAnswers = s.env.srcAnswers ∧ t.env.consumed = s.env.consumed) : ReadsInTurn s t :=
  ⟨hunread, [], by simp [hissued], by simp⟩

theorem ReadsInTurn.refl (s : State) : ReadsInTurn s s := .of_issued_eq rfl fun _ => ⟨rfl, rfl⟩

/-- An instruction issues a read only as an accepted `SDEC` command or as a byte in READ. -/
theorem exec_readsInTurn {i : Instr} {s t : State} (h : exec i s = .next t) : ReadsInTurn s t := by
  rcases exec_cases i s with ⟨w, -, hi⟩ | ⟨w, -, hi⟩ | ⟨c, g, -, hi⟩ | ⟨-, hi⟩ |
    ⟨-, win, l, q, -, -, hi⟩ <;> rw [hi] at h
  · rcases sencCommand_cases w s with ⟨-, hc⟩ | ⟨-, hc⟩ <;> cases hc.symm.trans h
    · exact ⟨fun _ => ⟨rfl, rfl⟩, _, rfl, by simp⟩
    · exact .refl s
  · rcases sdecCommand_cases w s with ⟨hidle, hc⟩ | ⟨-, hc⟩ <;> cases hc.symm.trans h
    · exact ⟨fun _ => ⟨rfl, rfl⟩, _, rfl, fun _ => ⟨rfl, rfl, .inl hidle⟩⟩
    · exact .refl s
  · rcases deliverByte_cases c g s with ⟨hread, hd⟩ | ⟨-, hd⟩ <;> cases hd.symm.trans h
    · refine ⟨fun hbusy => absurd hread hbusy, _, rfl, fun hmem => ?_⟩
      by_cases hnext : (byteStep s.profile c g s.sdec).dState = .read
      · exact ⟨if_pos hnext, hnext, .inr ⟨hread, rfl⟩⟩
      · simp [hnext] at hmem
    · exact .refl s
  · cases h
    exact .of_issued_eq rfl fun _ => ⟨rfl, rfl⟩
  · cases h
    exact .of_issued_eq rfl fun _ => ⟨rfl, rfl⟩

theorem sinkAnswer_readsInTurn (a : SinkAnswer) (s : State) : ReadsInTurn s (sinkAnswer a s) := by
  rcases sinkAnswer_cases a s with ⟨-, h⟩ | ⟨e, -, h⟩ <;> rw [h]
  · exact .of_issued_eq rfl fun _ => ⟨rfl, rfl⟩
  · exact .of_issued_eq rfl fun _ => ⟨rfl, rfl⟩

theorem takeResult_readsInTurn (u : UnitId) (s : State) : ReadsInTurn s (takeResult u s) := by
  rcases takeResult_cases u s with ⟨-, h⟩ | ⟨r, -, h⟩ <;> rw [h]
  · exact .refl s
  · exact .of_issued_eq rfl fun _ => ⟨rfl, rfl⟩

/-- Every step of the machine reads in turn. `ReadsInTurn` compares neither the schedule nor the ports,
so what holds from the state an event sees holds from `s`; a source answer is taken in READ only. -/
theorem step_readsInTurn {s t : State} (h : step s = .next t) : ReadsInTurn s t := by
  rcases step_cases h with ⟨-, rfl⟩ | ⟨a, rest, -, hcase⟩
  · exact .refl _
  rcases hcase with rfl | ⟨u, c, others, i, -, -, -, -, hexec⟩ | ⟨b, answers, -, hread, -, hexec⟩ |
    ⟨e, answers, -, hread, -, rfl⟩ | ⟨w, answers, -, -, -, rfl⟩ | ⟨u, -, rfl⟩ | ⟨win, -, hexec⟩
  · exact .of_issued_eq rfl fun _ => ⟨rfl, rfl⟩
  · obtain ⟨hunread, hissued⟩ := exec_readsInTurn hexec
    exact ⟨hunread, hissued⟩
  · exact ⟨fun hbusy => absurd hread hbusy, (exec_readsInTurn hexec).issued⟩
  · exact .of_issued_eq rfl fun hbusy => absurd hread hbusy
  · obtain ⟨hunread, hissued⟩ := sinkAnswer_readsInTurn w (popSink answers (popEvent rest s))
    exact ⟨hunread, hissued⟩
  · obtain ⟨hunread, hissued⟩ := takeResult_readsInTurn u (popEvent rest s)
    exact ⟨hunread, hissued⟩
  · obtain ⟨hunread, hissued⟩ := exec_readsInTurn hexec
    exact ⟨hunread, hissued⟩

/-- Settles O25: acceptance issues the first read, a byte the next one when the operation goes on, and
every step of the machine reads in turn. -/
theorem sdecReadsOneByteAtATime : Obligations.SdecReadsOneByteAtATime := by
  refine ⟨?accept, ?byte, fun s t h => ⟨(step_readsInTurn h).unread, (step_readsInTurn h).issued⟩⟩
  case accept =>
    intro i w s t hi hidle h
    obtain rfl := exec_sdec_of_idle hi hidle h
    exact ⟨rfl, rfl, rfl⟩
  case byte =>
    intro s rest b answers hsched hread hans
    refine ⟨_, step_source_of_byte hsched hread hans, rfl, rfl, ?_, ?_⟩
    · rintro ⟨hmore, hfits⟩
      have hnext := (byteStep_dState_of_more hmore hfits).trans hread
      simp [hnext]
    · intro hends
      have hdone := byteStep_dState_of_ends hends
      simp [hdone]

end Sys2Proof.Machine
end

section
/-! PROOFS. 30_encoding.md R95 and R104: the tier `FENC` picks, and the unsigned pseudo-operations. -/

namespace Sys2Proof.Machine

/-! ## The limits of the tiers (30_encoding.md R93) -/

theorem tierLimit_of_le_eight (p : Profile) {l : Nat} (h : l ≤ 8) :
    tierLimit p l = if p.tier = .offset then off (l + 1) else 2 ^ (7 * l) := by
  rw [tierLimit, if_neg (by omega : ¬ 9 ≤ l)]
  cases p.tier <;> simp

theorem tierLimit_one (p : Profile) : tierLimit p 1 = 0x80 := by
  rw [tierLimit_of_le_eight p (by decide)]
  split <;> rfl

/-- Tiers 1 to 8 leave the largest 64-bit value to tier 9. -/
theorem tierLimit_lt_two_pow_64 (p : Profile) {l : Nat} (h : l ≤ 8) : tierLimit p l < 2 ^ 64 := by
  rw [tierLimit_of_le_eight p h]
  split
  · calc off (l + 1) ≤ off 9 := monotone_nat_of_le_succ off_mono (by omega)
      _ < 2 ^ 64 := by decide
  · exact Nat.pow_lt_pow_right (by decide) (by omega)

/-! ## The tier of a value -/

/-- The value lies in the range of its tier. -/
theorem toNat_lt_tierLimit_tierOf (p : Profile) (v : BitVec 64) :
    v.toNat < tierLimit p (tierOf p v) := by
  rcases tierOf_cases p v with ⟨l, -, -, rfl, hlt, -⟩ | ⟨hnine, -⟩
  · exact hlt
  · rw [hnine]
    exact v.isLt

/-- The value lies above the range of every shorter tier. -/
theorem tierLimit_le_of_lt_tierOf (p : Profile) (v : BitVec 64) {k : Nat} (hk : 1 ≤ k)
    (hlt : k < tierOf p v) : tierLimit p k ≤ v.toNat := by
  rcases tierOf_cases p v with ⟨l, -, -, rfl, -, hbelow⟩ | ⟨hnine, hbelow⟩
  · exact hbelow k hk hlt
  · exact hbelow k hk (by omega)

/-- The ranges partition the values: only one tier's range holds `v` (30_encoding.md R95). -/
theorem tierOf_eq_of_range {p : Profile} {v : BitVec 64} {l : Nat} (hl : 1 ≤ l)
    (hlt : v.toNat < tierLimit p l) (hbelow : ∀ k, 1 ≤ k → k < l → tierLimit p k ≤ v.toNat) :
    tierOf p v = l := by
  rcases Nat.lt_trichotomy (tierOf p v) l with hshort | heq | hlong
  · have habove := hbelow _ (tierOf_bounds p v).1 hshort
    exact absurd (toNat_lt_tierLimit_tierOf p v) (Nat.not_lt.2 habove)
  · exact heq
  · exact absurd hlt (Nat.not_lt.2 (tierLimit_le_of_lt_tierOf p v hl hlong))

theorem tierOf_eq_one {p : Profile} {v : BitVec 64} (h : v.toNat ≤ 0x7F) : tierOf p v = 1 := by
  refine tierOf_eq_of_range (Nat.le_refl 1) ?_ fun k _ _ => by omega
  rw [tierLimit_one]
  omega

theorem tierOf_eq_two {p : Profile} {v : BitVec 64} (h : v.toNat = 0x80) : tierOf p v = 2 := by
  refine tierOf_eq_of_range (by decide) ?_ fun k hk hk2 => ?_
  · rw [h, tierLimit_of_le_eight p (by decide)]
    split <;> decide
  · obtain rfl : k = 1 := by omega
    rw [h, tierLimit_one]

theorem tierOf_eq_nine {p : Profile} {v : BitVec 64} (h : v.toNat = 2 ^ 64 - 1) :
    tierOf p v = 9 := by
  refine tierOf_eq_of_range (by decide) v.isLt fun k _ hk => ?_
  rw [h]
  exact Nat.le_sub_one_of_lt (tierLimit_lt_two_pow_64 p (by omega))

/-! ## The length `FENC` writes -/

theorem fenc_flen (p : Profile) (v : BitVec 64) : (fenc p v).2 = BitVec.ofNat 4 (tierOf p v) := rfl

theorem fenc_flen_toNat (p : Profile) (v : BitVec 64) : (fenc p v).2.toNat = tierOf p v := by
  have hnine := (tierOf_bounds p v).2
  rw [fenc_flen, BitVec.toNat_ofNat]
  exact Nat.mod_eq_of_lt (by omega)

/-- Settles O31: `FLEN` is the tier of `FV`, and the ranges decide the tier. -/
theorem fencPicksTheSmallestTier : Obligations.FencPicksTheSmallestTier := by
  intro s t h
  have hlen : t.fenc.flen = (fenc s.profile t.fenc.fv).2 := by rw [fenc_regs_of_exec h]
  generalize t.fenc.fv = v at hlen ⊢
  rw [hlen, fenc_flen_toNat, fenc_flen]
  obtain ⟨hone, hnine⟩ := tierOf_bounds s.profile v
  refine ⟨hone, hnine, fun hle => ?inRange, fun l hl hlt => ?aboveShorter,
    fun hv => by rw [tierOf_eq_one hv]; rfl, fun hv => by rw [tierOf_eq_two hv]; rfl,
    fun hv => by rw [tierOf_eq_nine hv]; rfl⟩
  case inRange =>
    rw [← tierLimit_of_le_eight s.profile hle]
    exact toNat_lt_tierLimit_tierOf s.profile v
  case aboveShorter =>
    rw [← tierLimit_of_le_eight s.profile (by omega)]
    exact tierLimit_le_of_lt_tierOf s.profile v hl hlt

/-! ## Unsigned pseudo-operations -/

/-- Settles O50: an expansion carries its operation's word and the operand as it is. -/
theorem unsignedPseudoOperations : Obligations.UnsignedPseudoOperations :=
  fun w v hv =>
    ⟨commandFor_decodes _ _ (encode_sencOf w), operand_toNat w v hv,
      commandFor_decodes _ _ (encode_sdecOf w),
      fun _ => ⟨commandFor_decodes _ _ encode_fenc, operand_toNat w v hv⟩⟩

end Sys2Proof.Machine
end

section
/-! PROOFS. 41_std_encoder.md R131: `SDEC` reads back what `SENC` writes. -/

namespace Sys2Proof.Machine

/-! ## The fields of a wire byte (30_encoding.md R80) -/

@[simp] theorem contBit_wireByte (c : BitVec 1) (g : BitVec 7) : contBit (wireByte c g) = c := by
  rw [contBit, wireByte, BitVec.extractLsb'_append_eq_left]

@[simp] theorem groupBits_wireByte (c : BitVec 1) (g : BitVec 7) :
    groupBits (wireByte c g) = g := by
  rw [groupBits, wireByte, BitVec.extractLsb'_append_eq_right]

/-! ## The encode loop (41_std_encoder.md R121)

First the low group of a value and the rest of it, as numbers. -/

theorem group_toNat (n : BitVec 128) : (n.extractLsb' 0 7).toNat = n.toNat % 128 := by simp

theorem shiftGroup_toNat (n : BitVec 128) : (n >>> 7).toNat = n.toNat / 128 := by
  rw [BitVec.toNat_ushiftRight, Nat.shiftRight_eq_div_pow]

theorem shiftGroup_eq_zero_iff (n : BitVec 128) : n >>> 7 = 0 ↔ n.toNat < 128 := by
  rw [← BitVec.toNat_inj, shiftGroup_toNat]
  simp [Nat.div_eq_zero_iff]

/-- A value of one group is written as its last byte. -/
theorem encodeLoop_of_lt (p : Profile) (fuel : Nat) {n : BitVec 128} (h : n.toNat < 128) :
    encodeLoop p (fuel + 1) n = [wireByte (contLast p) (n.extractLsb' 0 7)] := by
  rw [encodeLoop, if_pos ((shiftGroup_eq_zero_iff n).2 h)]

/-- A longer value is written as its low group and then the rest. -/
theorem encodeLoop_of_ge (p : Profile) (fuel : Nat) {n : BitVec 128} (h : 128 ≤ n.toNat) :
    encodeLoop p (fuel + 1) n =
      wireByte (contMore p) (n.extractLsb' 0 7) :: encodeLoop p fuel (n >>> 7) := by
  rw [encodeLoop, if_neg fun hz => Nat.not_lt.2 h ((shiftGroup_eq_zero_iff n).1 hz)]

/-! ## A byte whose group fits (42_std_decoder.md R143) -/

theorem not_tooWide_of_lt {w gi : Nat} {g : BitVec 7} (h : g.toNat * 2 ^ (7 * gi) < 2 ^ w) :
    ¬ tooWide w gi g :=
  fun hwide => Nat.not_lt.2 hwide.2 h

/-- A terminal byte ends the operation with `OK` and the group added. -/
theorem byteStep_last_of_fits {p : Profile} {g : BitVec 7} {d : SdecRegs}
    (hacc : d.acc.toNat < 2 ^ (7 * d.gi.toNat)) (hfits : ¬ tooWide d.dW.bits d.gi.toNat g) :
    (byteStep p (contLast p) g d).dState = .done ∧ (byteStep p (contLast p) g d).dStatus = .ok ∧
      (byteStep p (contLast p) g d).acc.toNat =
        d.acc.toNat + g.toNat * 2 ^ (7 * d.gi.toNat) := by
  rcases byteStep_cases p (contLast p) g d with ⟨hwide, -⟩ | ⟨-, acc, hsum, ⟨-, hd⟩ | ⟨hne, -⟩⟩
  · exact absurd hwide hfits
  · rw [hd]
    exact ⟨rfl, rfl, hsum ▸ acc_add_group d g hacc hfits⟩
  · exact absurd rfl hne

/-- Any other byte adds its group and moves the index on, up to `LMAX(W)`. -/
theorem byteStep_more_of_fits {p : Profile} {g : BitVec 7} {d : SdecRegs}
    (hacc : d.acc.toNat < 2 ^ (7 * d.gi.toNat)) (hfits : ¬ tooWide d.dW.bits d.gi.toNat g) :
    (byteStep p (contMore p) g d).acc.toNat = d.acc.toNat + g.toNat * 2 ^ (7 * d.gi.toNat) ∧
      (byteStep p (contMore p) g d).gi.toNat = min (d.gi.toNat + 1) (lmax d.dW.bits) := by
  rcases byteStep_cases p (contMore p) g d with ⟨hwide, -⟩ | ⟨-, acc, hsum, ⟨hlast, -⟩ | ⟨-, hd⟩⟩
  · exact absurd hwide hfits
  · exact absurd hlast (contMore_ne_contLast p)
  · have hlmax := (lmax_bounds d.dW).2.1
    rw [hd]
    refine ⟨hsum ▸ acc_add_group d g hacc hfits, ?_⟩
    rw [BitVec.toNat_ofNat]
    exact Nat.mod_eq_of_lt (by omega)

/-! ## What the rest of an encoding adds -/

/-- `ACC` and the groups of `n`, from group `GI` on, make up `v`, which fits the width: `SDEC`'s side
of the encode loop's invariant (41_std_encoder.md R121, R131). -/
structure StillToRead (v : Nat) (n : BitVec 128) (d : SdecRegs) : Prop where
  acc_below_group : d.acc.toNat < 2 ^ (7 * d.gi.toNat)
  value : d.acc.toNat + n.toNat * 2 ^ (7 * d.gi.toNat) = v
  value_fits : v < 2 ^ d.dW.bits

theorem startSdec_stillToRead {w : Width} {n : BitVec 128} (d : SdecRegs)
    (h : n.toNat < 2 ^ w.bits) : StillToRead n.toNat n (startSdec w d) :=
  ⟨by simp, by simp, h⟩

theorem StillToRead.group_fits {v : Nat} {n : BitVec 128} {d : SdecRegs} (h : StillToRead v n d) :
    ¬ tooWide d.dW.bits d.gi.toNat (n.extractLsb' 0 7) := by
  refine not_tooWide_of_lt ?_
  calc (n.extractLsb' 0 7).toNat * 2 ^ (7 * d.gi.toNat)
      ≤ n.toNat * 2 ^ (7 * d.gi.toNat) :=
        Nat.mul_le_mul_right _ (group_toNat n ▸ Nat.mod_le _ _)
    _ ≤ v := h.value ▸ Nat.le_add_left _ _
    _ < 2 ^ d.dW.bits := h.value_fits

/-- When one group is left, its byte completes the value. -/
theorem StillToRead.last {v : Nat} {n : BitVec 128} {d : SdecRegs} (h : StillToRead v n d)
    (hn : n.toNat < 128) (p : Profile) :
    (byteStep p (contLast p) (n.extractLsb' 0 7) d).dState = .done ∧
      (byteStep p (contLast p) (n.extractLsb' 0 7) d).dStatus = .ok ∧
      (byteStep p (contLast p) (n.extractLsb' 0 7) d).acc.toNat = v := by
  obtain ⟨hdone, hok, hsum⟩ := byteStep_last_of_fits (p := p) h.acc_below_group h.group_fits
  rw [group_toNat, Nat.mod_eq_of_lt hn, h.value] at hsum
  exact ⟨hdone, hok, hsum⟩

/-- While more than one group is left the index does not saturate. -/
theorem StillToRead.index_lt {v : Nat} {n : BitVec 128} {d : SdecRegs} (h : StillToRead v n d)
    (hn : 128 ≤ n.toNat) : d.gi.toNat < lmax d.dW.bits := by
  have hpow : 2 ^ (7 * d.gi.toNat) < 2 ^ d.dW.bits := by
    have hle := Nat.le_mul_of_pos_left (2 ^ (7 * d.gi.toNat)) (n := n.toNat) (by omega)
    have hv := h.value
    have hfits := h.value_fits
    omega
  have hlt := (Nat.pow_lt_pow_iff_right (by decide : 1 < 2)).1 hpow
  have hlmax := (lmax_bounds d.dW).2.2
  omega

/-- While more than one group is left, its byte leaves the rest of them. -/
theorem StillToRead.more {v : Nat} {n : BitVec 128} {d : SdecRegs} (h : StillToRead v n d)
    (hn : 128 ≤ n.toNat) (p : Profile) :
    StillToRead v (n >>> 7) (byteStep p (contMore p) (n.extractLsb' 0 7) d) := by
  obtain ⟨hsum, hgi⟩ := byteStep_more_of_fits (p := p) h.acc_below_group h.group_fits
  have hindex := h.index_lt hn
  have hpow : 2 ^ (7 * (d.gi.toNat + 1)) = 128 * 2 ^ (7 * d.gi.toNat) := by
    rw [Nat.mul_add, Nat.pow_add, Nat.mul_comm]
  have hacc := h.acc_below_group
  rw [Nat.min_eq_left hindex] at hgi
  rw [group_toNat] at hsum
  refine ⟨?below, ?value, by rw [byteStep_dW]; exact h.value_fits⟩
  case below =>
    have hlow : n.toNat % 128 * 2 ^ (7 * d.gi.toNat) ≤ 127 * 2 ^ (7 * d.gi.toNat) :=
      Nat.mul_le_mul_right _ (by omega)
    rw [hsum, hgi, hpow]
    omega
  case value =>
    rw [hsum, hgi, hpow, shiftGroup_toNat, ← h.value, ← Nat.mul_assoc, Nat.add_assoc, ← Nat.add_mul,
      Nat.mul_comm (n.toNat / 128), Nat.mod_add_div]

/-! ## Reading a run of bytes -/

/-- `SDEC` is reading, and the next events are the source's, which delivers just the bytes `l`. -/
structure ReadingBytes (l : List Byte) (s : State) : Prop where
  reading : s.sdec.dState = .read
  sched : s.env.sched = List.replicate l.length .source
  answers : s.env.srcAnswers = l.map .byte

theorem withAnswers_readingBytes (l : List Byte) {s : State} (h : s.sdec.dState = .read) :
    ReadingBytes l (withAnswers (l.map .byte) s) :=
  ⟨h, by simp [withAnswers], rfl⟩

/-- The step that reads the first of the bytes to come, in the terms a run over them needs. -/
theorem ReadingBytes.step {c : BitVec 1} {g : BitVec 7} {l : List Byte} {s : State}
    (h : ReadingBytes (wireByte c g :: l) s) :
    ∃ t, step s = .next t ∧ t.profile = s.profile ∧ t.sdec = byteStep s.profile c g s.sdec ∧
      t.env.consumed = s.env.consumed + 1 ∧ (t.sdec.dState = .read → ReadingBytes l t) := by
  have hstep := step_source_of_byte h.sched h.reading h.answers
  rw [contBit_wireByte, groupBits_wireByte] at hstep
  exact ⟨_, hstep, rfl, rfl, rfl, fun hread => ⟨hread, rfl, rfl⟩⟩

/-- From `s` to `t`, `SDEC` ends with `OK` and the value `v`, after `k` more bytes. -/
structure ReadsValue (v k : Nat) (s t : State) : Prop where
  done : t.sdec.dState = .done
  status : t.sdec.dStatus = .ok
  value : t.sdec.acc.toNat = v
  consumed : t.env.consumed = s.env.consumed + k

/-- A run over the last byte of an encoding. -/
theorem run_lastByte {n : BitVec 128} {s : State} {v : Nat}
    (hs : ReadingBytes [wireByte (contLast s.profile) (n.extractLsb' 0 7)] s)
    (hd : StillToRead v n s.sdec) (hn : n.toNat < 128) :
    ∃ t, Host.Core.run core 1 s = .next t ∧ ReadsValue v 1 s t := by
  obtain ⟨t, hstep, -, hsdec, hconsumed, -⟩ := hs.step
  obtain ⟨hdone, hok, hvalue⟩ := hd.last hn s.profile
  exact ⟨t, run_succ 0 hstep, hsdec ▸ hdone, hsdec ▸ hok, hsdec ▸ hvalue, hconsumed⟩

/-- `SDEC` reads all of the encode loop's bytes and ends with the value. The bound on `n` says that
the loop's passes are enough (41_std_encoder.md R122). -/
theorem run_encodeLoop (fuel : Nat) {n : BitVec 128} {s : State} {v : Nat}
    (hfuel : n.toNat < 128 ^ (fuel + 1))
    (hs : ReadingBytes (encodeLoop s.profile (fuel + 1) n) s) (hd : StillToRead v n s.sdec) :
    ∃ t, Host.Core.run core (encodeLoop s.profile (fuel + 1) n).length s = .next t ∧
      ReadsValue v (encodeLoop s.profile (fuel + 1) n).length s t := by
  induction fuel generalizing n s with
  | zero =>
    rw [encodeLoop_of_lt _ _ hfuel] at hs ⊢
    exact run_lastByte hs hd hfuel
  | succ fuel ih =>
    rcases Nat.lt_or_ge n.toNat 128 with hlast | hmore
    · rw [encodeLoop_of_lt _ _ hlast] at hs ⊢
      exact run_lastByte hs hd hlast
    · rw [encodeLoop_of_ge _ _ hmore] at hs ⊢
      obtain ⟨t, hstep, hp, hsdec, hconsumed, hrest⟩ := hs.step
      have hread : t.sdec.dState = .read := by
        rw [hsdec, byteStep_dState_of_more rfl hd.group_fits, hs.reading]
      have hshift : (n >>> 7).toNat < 128 ^ (fuel + 1) := by
        rw [shiftGroup_toNat]
        exact Nat.div_lt_of_lt_mul (Nat.pow_succ' ▸ hfuel)
      obtain ⟨u, hrun, hu⟩ := ih hshift (hp ▸ hrest hread) (hsdec ▸ hd.more hmore s.profile)
      rw [hp] at hrun hu
      refine ⟨u, (run_succ _ hstep).trans hrun, hu.done, hu.status, hu.value, ?_⟩
      rw [hu.consumed, hconsumed, List.length_cons, Nat.add_assoc, Nat.add_comm 1]

/-- What `SENC` writes for `n` (41_std_encoder.md R134), delivered to a reading `SDEC`. -/
theorem run_sencBytes {n : BitVec 128} {s : State} {v : Nat} (hread : s.sdec.dState = .read)
    (hd : StillToRead v n s.sdec) :
    ∃ t, Host.Core.run core (sencBytes s.profile n).length
        (withAnswers ((sencBytes s.profile n).map .byte) s) = .next t ∧
      ReadsValue v (sencBytes s.profile n).length s t := by
  have hpasses : n.toNat < 128 ^ (18 + 1) := Nat.lt_trans n.isLt (by decide)
  obtain ⟨t, hrun, ht⟩ :=
    run_encodeLoop (s := withAnswers ((sencBytes s.profile n).map .byte) s) 18 hpasses
      (withAnswers_readingBytes _ hread) hd
  exact ⟨t, hrun, ht.done, ht.status, ht.value, ht.consumed⟩

/-- Settles O28: a newly accepted `SDEC` has all of the value still to read. -/
theorem standardRoundTrip : Obligations.StandardRoundTrip := by
  intro i j w w2 s s1 s2 hi hj hsenc hsdec h1 h2 hfits
  have hs1 := exec_senc_of_idle hi hsenc h1
  have hidle : s1.sdec.dState = .idle := by rw [hs1]; exact hsdec
  have hs2 := exec_sdec_of_idle hj hidle h2
  have hbytes : outBytes s1.senc = sencBytes s2.profile s1.senc.sVal := by simp [hs2, hs1]
  have hreading : s2.sdec.dState = .read := by simp [hs2]
  have hrest : StillToRead s1.senc.sVal.toNat s1.senc.sVal s2.sdec := by
    rw [hs2]
    exact startSdec_stillToRead s1.sdec hfits
  obtain ⟨t, hrun, ht⟩ := run_sencBytes hreading hrest
  rw [hbytes]
  refine ⟨t, hrun, ht.done, ht.status, BitVec.eq_of_toNat_eq ht.value, ?operand, ?consumed⟩
  case operand => rw [ht.value, hs1, issue_senc, startSenc_sVal, lowBits_toNat]
  case consumed => rw [ht.consumed, hs2, issue_env_consumed, hs1, issue_env_consumed]

end Sys2Proof.Machine
end

section
/-! PROOFS. 41_std_encoder.md R123: `SENC`'s one write, its answer, and the encoding it keeps. -/

namespace Sys2Proof.Machine

/-! ## The sink's answer -/

/-- The sink's answer in WRITE (10_state.md R28). -/
theorem step_sink_of_answer {s : State} {rest : List Action} {a : SinkAnswer}
    {answers : List SinkAnswer} (h : s.env.sched = .sink :: rest) (hwrite : s.senc.sState = .write)
    (hans : s.env.snkAnswers = a :: answers) :
    step s = .next (sinkAnswer a (popSink answers (popEvent rest s))) := by
  simp [step, nextEvent, h, runAction, sinkEvent, hwrite, hans]

/-! ## A busy `SENC` over every step of the machine -/

/-- From `s` to `t` the encoding stays in `OBUF` and `OLEN`, and no write is issued. -/
structure KeepsEncoding (s t : State) : Prop where
  obuf : t.senc.obuf = s.senc.obuf
  olen : t.senc.olen = s.senc.olen
  no_write : ∃ more, t.env.issued = s.env.issued ++ more ∧
    ∀ bytes, Request.sinkWrite bytes ∉ more

/-- A transition that issues nothing keeps the encoding when it leaves the two registers alone. -/
theorem KeepsEncoding.of_issued_eq {s t : State} (hissued : t.env.issued = s.env.issued)
    (hobuf : t.senc.obuf = s.senc.obuf) (holen : t.senc.olen = s.senc.olen) : KeepsEncoding s t :=
  ⟨hobuf, holen, [], by simp [hissued], by simp⟩

/-- `KeepsEncoding` compares neither the schedule, the ports nor the answers, so what holds from the
state `s'` an event sees holds from `s`. -/
theorem KeepsEncoding.of_seen {s s' t : State} (h : KeepsEncoding s' t) (hsenc : s'.senc = s.senc)
    (hissued : s'.env.issued = s.env.issued) : KeepsEncoding s t :=
  ⟨hsenc ▸ h.obuf, hsenc ▸ h.olen, hissued ▸ h.no_write⟩

theorem KeepsEncoding.refl (s : State) : KeepsEncoding s s := .of_issued_eq rfl rfl rfl

/-- Of the instructions only an accepted `SENC` command writes them or issues a write. -/
theorem exec_keepsEncoding {i : Instr} {s t : State} (h : exec i s = .next t)
    (hbusy : s.senc.sState ≠ .idle) : KeepsEncoding s t := by
  rcases exec_cases i s with ⟨w, -, hi⟩ | ⟨w, -, hi⟩ | ⟨c, g, -, hi⟩ | ⟨-, hi⟩ |
    ⟨-, win, l, q, -, -, hi⟩ <;> rw [hi] at h
  · rcases sencCommand_cases w s with ⟨hidle, -⟩ | ⟨-, hc⟩
    · exact absurd hidle hbusy
    · cases hc.symm.trans h
      exact .refl s
  · rcases sdecCommand_cases w s with ⟨-, hc⟩ | ⟨-, hc⟩ <;> cases hc.symm.trans h
    · exact ⟨rfl, rfl, _, rfl, by simp⟩
    · exact .refl s
  · rcases deliverByte_cases c g s with ⟨-, hd⟩ | ⟨-, hd⟩ <;> cases hd.symm.trans h
    · refine ⟨rfl, rfl, _, rfl, fun bytes => ?_⟩
      split <;> simp
    · exact .refl s
  · cases h
    exact .of_issued_eq rfl rfl rfl
  · cases h
    exact .of_issued_eq rfl rfl rfl

theorem sinkAnswer_keepsEncoding (a : SinkAnswer) (s : State) :
    KeepsEncoding s (sinkAnswer a s) := by
  rcases sinkAnswer_cases a s with ⟨-, h⟩ | ⟨e, -, h⟩ <;> rw [h]
  · exact .of_issued_eq rfl rfl rfl
  · exact .of_issued_eq rfl rfl rfl

theorem takeResult_keepsEncoding (u : UnitId) (s : State) : KeepsEncoding s (takeResult u s) := by
  rcases takeResult_cases u s with ⟨-, h⟩ | ⟨r, -, h⟩ <;> rw [h]
  · exact .refl s
  · refine .of_issued_eq rfl ?_ ?_ <;> cases u <;> rfl

/-- A step of the machine in WRITE or DONE. -/
theorem step_keepsEncoding {s t : State} (h : step s = .next t) (hbusy : s.senc.sState ≠ .idle) :
    KeepsEncoding s t := by
  rcases step_cases h with ⟨-, rfl⟩ | ⟨a, rest, -, hcase⟩
  · exact .refl _
  rcases hcase with rfl | ⟨u, c, others, i, -, -, -, -, hexec⟩ | ⟨b, answers, -, -, -, hexec⟩ |
    ⟨e, answers, -, -, -, rfl⟩ | ⟨w, answers, -, -, -, rfl⟩ | ⟨u, -, rfl⟩ | ⟨win, -, hexec⟩
  · exact .of_issued_eq rfl rfl rfl
  · exact (exec_keepsEncoding hexec hbusy).of_seen rfl rfl
  · exact (exec_keepsEncoding hexec hbusy).of_seen rfl rfl
  · exact .of_issued_eq rfl rfl rfl
  · exact (sinkAnswer_keepsEncoding _ _).of_seen rfl rfl
  · exact (takeResult_keepsEncoding _ _).of_seen rfl rfl
  · exact (exec_keepsEncoding hexec hbusy).of_seen rfl rfl

/-- Settles O17: acceptance issues the write, the sink's answer ends the operation, and a busy
`SENC` keeps its encoding over every step. -/
theorem sencOneWriteAndItsAnswer : Obligations.SencOneWriteAndItsAnswer := by
  refine ⟨?accept, ?ok, ?reject, fun s t hbusy h => ?busy⟩
  case accept =>
    intro i w s t hi hidle h
    have hbytes : outBytes t.senc = sencBytes s.profile (lowBits w s.env.opPort) := by
      simp [exec_senc_of_idle hi hidle h]
    change t.env.issued = s.env.issued ++ [.sinkWrite (outBytes t.senc)]
    rw [hbytes, exec_senc_of_idle hi hidle h, issue_env_issued]
  case ok =>
    intro s rest answers hsched hwrite hans
    exact ⟨_, step_sink_of_answer hsched hwrite hans, rfl, rfl, rfl⟩
  case reject =>
    intro s rest e answers hsched hwrite hans
    exact ⟨_, step_sink_of_answer hsched hwrite hans, rfl, rfl, _, List.take_prefix _ _, rfl⟩
  case busy =>
    obtain ⟨hobuf, holen, hissued⟩ := step_keepsEncoding h hbusy
    exact ⟨hobuf, holen, hissued⟩

end Sys2Proof.Machine
end

section
/-! PROOFS. 42_std_decoder.md R141 and R146: how a decode starts, and how a failed read ends it. -/

namespace Sys2Proof.Machine

/-- Settles O18: a row of `SDEC` is its `sdecCommand`, and that has one branch in IDLE. -/
theorem sdecStartsReading : Obligations.SdecStartsReading := by
  intro i w s hrow hidle
  rw [exec_sdecRow hrow]
  rcases sdecCommand_cases w s with ⟨-, haccepted⟩ | ⟨hbusy, -⟩
  · rw [haccepted, startSdec, issue]
  · exact absurd hidle hbusy

/-- The source's failure in READ: the event and the answer are taken, then `SDEC` raises `Io(e)`
(42_std_decoder.md R146). -/
theorem step_source_of_fail {s : State} {rest : List Action} {e : ErrTok} {answers : List SrcAnswer}
    (h : s.env.sched = .source :: rest) (hread : s.sdec.dState = .read)
    (hans : s.env.srcAnswers = .fail e :: answers) :
    step s = .next (sourceFails e (popSource answers (popEvent rest s))) := by
  simp [step_source h, sourceEvent, hread, hans]

/-- Settles O23: the failure writes four registers of `SDEC` and takes the event and the answer. -/
theorem sourceFailureEndsTheDecode : Obligations.SourceFailureEndsTheDecode := by
  intro s rest e answers hsched hread hans
  rw [step_source_of_fail hsched hread hans]
  simp only [sourceFails, raiseSdec, excStatus, excToken, popSource, popEvent]

end Sys2Proof.Machine
end

section
/-! PROOFS. 43_fast_encoder.md R173 and R176: `FENC` does not fail, and `FDEC` reads back what it
writes. -/

namespace Sys2Proof.Machine

/-! ## The command -/

theorem exec_fenc_eq_runFenc (s : State) :
    exec .fenc s = .next (runFenc (s.env.opPort.setWidth 64) s) := rfl

theorem profile_of_exec_fenc {s t : State} (h : exec .fenc s = .next t) :
    t.profile = s.profile := by
  rw [exec_fenc_eq_runFenc, Host.Outcome.next.injEq] at h
  rw [← h, runFenc_profile]

/-- Settles O32: `FENC` is `runFenc`, which writes the registers of its own unit. -/
theorem fencHasNoFailure : Obligations.FencHasNoFailure := by
  intro s v
  refine ⟨_, exec_fenc_eq_runFenc _, ?_, runFenc_senc _ _, runFenc_sdec _ _⟩
  rw [runFenc_fv]
  exact BitVec.setWidth_setWidth_of_le v (by decide)

/-! ## The payload of a value in its tier (30_encoding.md R93) -/

/-- A tier starts at its offset, so the subtraction of R93 does not wrap. -/
theorem off_le_of_tierOf (p : Profile) (v : BitVec 64) (hp : p.tier = .offset) :
    off (tierOf p v) ≤ v.toNat := by
  have h9 := (tierOf_bounds p v).2
  have hshorter := @tierLimit_le_of_lt_tierOf p v
  generalize tierOf p v = l at h9 hshorter ⊢
  match l with
  | 0 | 1 => exact Nat.zero_le _
  | k + 2 =>
    have hle := hshorter (Nat.succ_pos k) (Nat.lt_succ_self (k + 1))
    rwa [tierLimit_of_le_eight p (by omega), if_pos hp] at hle

/-- The payload fits the bits its tier gives it. -/
theorem payloadOf_lt (p : Profile) (v : BitVec 64) (h8 : tierOf p v ≤ 8) :
    (payloadOf p (tierOf p v) v).toNat < 2 ^ (7 * tierOf p v) := by
  have hlt := toNat_lt_tierLimit_tierOf p v
  rw [tierLimit_of_le_eight p h8] at hlt
  cases hp : p.tier with
  | absolute => simpa [payloadOf, hp] using hlt
  | offset =>
    have hoff := off_le_of_tierOf p v hp
    obtain ⟨k, hk⟩ := Nat.exists_eq_add_of_le' (tierOf_bounds p v).1
    rw [hp, if_pos rfl, hk, off_step] at hlt
    rw [hk] at hoff ⊢
    have hoffNat : (BitVec.ofNat 64 (off (k + 1))).toNat = off (k + 1) := by
      rw [BitVec.toNat_ofNat, Nat.mod_eq_of_lt (Nat.lt_of_le_of_lt hoff v.isLt)]
    rw [payloadOf, hp, BitVec.toNat_sub_of_le (by rwa [BitVec.le_def, hoffNat]), hoffNat]
    omega

@[simp] theorem valueOf_payloadOf (p : Profile) (l : Nat) (v : BitVec 64) :
    valueOf p l (payloadOf p l v) = v := by
  unfold valueOf payloadOf
  cases p.tier with
  | offset => exact BitVec.sub_add_cancel v _
  | absolute => rfl

/-! ## The first byte (30_encoding.md R91, R96) -/

theorem getLsbD_payloadMask (l j : Nat) : (payloadMask l).getLsbD j = decide (j < 8 - l) := by
  have hones : 0xFF#8 = BitVec.allOnes 8 := rfl
  rw [payloadMask, hones, BitVec.getLsbD_ushiftRight, BitVec.getLsbD_allOnes, decide_eq_decide]
  omega

/-- The length bits and the payload do not overlap. -/
theorem emptyFirstByte_and_payloadMask (p : Profile) {l : Nat} (h1 : 1 ≤ l) (h9 : l ≤ 9) :
    emptyFirstByte p l &&& payloadMask l = 0 := by
  unfold emptyFirstByte
  cases p.pfx <;> interval_cases l <;> rfl

theorem firstByte_and_payloadMask (p : Profile) {l : Nat} (h1 : 1 ≤ l) (h9 : l ≤ 9) (h : Byte) :
    firstByte p l h &&& payloadMask l = h &&& payloadMask l := by
  rw [firstByte, BitVec.and_or_distrib_right, emptyFirstByte_and_payloadMask p h1 h9,
    BitVec.and_assoc, BitVec.and_self]
  exact BitVec.zero_or

/-- The length bits give the tier, whatever the payload is: the rows of 30_encoding.md R91's table. -/
theorem tierLength_firstByte (p : Profile) {l : Nat} (h1 : 1 ≤ l) (h9 : l ≤ 9) (h : Byte) :
    tierLength p (firstByte p l h) = l := by
  unfold tierLength firstByte emptyFirstByte
  cases p.pfx <;> interval_cases l <;> simp [clz8, clo8, onesFrom, payloadMask]

/-! ## The bytes of a tier (30_encoding.md R92) -/

/-- The table of 30_encoding.md R91 agrees with the numbers of R92. -/
theorem emptyFirstByte_eq_prefixNumber (p : Profile) {l : Nat} (h1 : 1 ≤ l) (h8 : l ≤ 8) :
    emptyFirstByte p l = (prefixNumber p l).setWidth 8 <<< (8 - l) := by
  unfold emptyFirstByte prefixNumber
  cases p.pfx <;> interval_cases l <;> rfl

theorem getLsbD_tierNumber (p : Profile) (l : Nat) (q : BitVec 64) {i : Nat} (hi : i < 64) :
    (tierNumber p l q).getLsbD i =
      if i < 7 * l then q.getLsbD i else (prefixNumber p l).getLsbD (i - 7 * l) := by
  simp only [tierNumber, BitVec.getLsbD_or, BitVec.getLsbD_shiftLeft, BitVec.getLsbD_and,
    BitVec.getLsbD_ofNat, Nat.testBit_two_pow_sub_one, hi]
  split <;> simp [*]

/-- The top byte of `E` is the tier's first byte with the payload's top bits. -/
theorem tierNumber_firstByte (p : Profile) {l : Nat} (h1 : 1 ≤ l) (h8 : l ≤ 8) (q : BitVec 64) :
    (tierNumber p l q >>> (8 * (l - 1))).setWidth 8 =
      firstByte p l ((q >>> (8 * (l - 1))).setWidth 8) := by
  rw [firstByte, emptyFirstByte_eq_prefixNumber p h1 h8]
  refine BitVec.eq_of_getLsbD_eq fun j hj => ?_
  have hindex : 8 * (l - 1) + j - 7 * l = j - (8 - l) := by omega
  have hbit : 8 * (l - 1) + j < 64 := by omega
  simp only [BitVec.getLsbD_setWidth, BitVec.getLsbD_ushiftRight, BitVec.getLsbD_or,
    BitVec.getLsbD_shiftLeft, BitVec.getLsbD_and, getLsbD_payloadMask,
    getLsbD_tierNumber p l q hbit, hindex, hj]
  by_cases hpayload : j < 8 - l
  · simp [hpayload, show 8 * (l - 1) + j < 7 * l by omega]
  · simp [hpayload, show ¬ 8 * (l - 1) + j < 7 * l by omega, show j - (8 - l) < 8 by omega]

/-- The bytes of `E` below the top one hold payload bits only. -/
theorem tierNumber_byte (p : Profile) {l k : Nat} (h8 : l ≤ 8) (hk : k + 1 < l) (q : BitVec 64) :
    (tierNumber p l q >>> (8 * k)).setWidth 8 = (q >>> (8 * k)).setWidth 8 := by
  refine BitVec.eq_of_getLsbD_eq fun j hj => ?_
  have hlow : 8 * k + j < 7 * l := by omega
  simp [getLsbD_tierNumber p l q (show 8 * k + j < 64 by omega), hlow]

/-- The first byte of a number is its top byte. -/
theorem bigEndian_succ (n : Nat) (e : BitVec 64) :
    bigEndian (n + 1) e = (e >>> (8 * n)).setWidth 8 :: bigEndian n e := by
  simp only [bigEndian, List.range_succ_eq_map, List.map_cons, List.map_map]
  congr 1
  refine List.map_congr_left fun k hk => ?_
  have := List.mem_range.1 hk
  simp only [Function.comp, Nat.succ_eq_add_one]
  congr 3
  omega

/-- The last byte of a number is its low byte; the bytes before it are those of the rest. -/
theorem bigEndian_succ_eq_append (n : Nat) (e : BitVec 64) :
    bigEndian (n + 1) e = bigEndian n (e >>> 8) ++ [e.setWidth 8] := by
  simp only [bigEndian, List.range_succ, List.map_append, List.map_cons, List.map_nil]
  congr 1
  · refine List.map_congr_left fun k hk => ?_
    have := List.mem_range.1 hk
    rw [← BitVec.shiftRight_add]
    congr 2
    omega
  · simp

/-- An encoding is a first byte of its tier and the low bytes of the payload. -/
theorem fencBytes_eq_cons (p : Profile) {l : Nat} (h1 : 1 ≤ l) (h9 : l ≤ 9) (q : BitVec 64) :
    fencBytes p l q =
      firstByte p l ((q >>> (8 * (l - 1))).setWidth 8) :: bigEndian (l - 1) q := by
  obtain ⟨n, rfl⟩ := Nat.exists_eq_add_of_le' h1
  by_cases h8 : n + 1 ≤ 8
  · rw [fencBytes, if_pos h8, bigEndian_succ, ← tierNumber_firstByte p h1 h8]
    congr 1
    refine List.map_congr_left fun k hk => ?_
    have := List.mem_range.1 hk
    exact tierNumber_byte p h8 (by omega) q
  · obtain rfl : n = 8 := by omega
    rw [fencBytes, if_neg h8]
    simp [firstByte, payloadMask]

/-! ## The window (44_fast_decoder.md R191) -/

/-- The loop of R191 puts a number together again from its top part and its low bytes. -/
theorem foldl_bigEndian (n : Nat) (e : BitVec 64) :
    (bigEndian n e).foldl (fun (q : BitVec 64) b => q <<< 8 ||| b.setWidth 64)
      (e >>> (8 * n)) = e := by
  induction n generalizing e with
  | zero => simp [bigEndian]
  | succ n ih =>
    rw [bigEndian_succ_eq_append, List.foldl_append, Nat.mul_succ, Nat.add_comm,
      BitVec.shiftRight_add, ih]
    refine BitVec.eq_of_getLsbD_eq fun i hi => ?_
    by_cases h : i < 8
    · simp [h, hi]
    · simp [h, hi, Nat.add_sub_of_le (Nat.not_lt.1 h)]

/-- A payload that fits its tier leaves the first byte no more bits than `payloadMask` keeps. -/
theorem topPayload_masked {l : Nat} {q : BitVec 64} (h1 : 1 ≤ l) (h9 : l ≤ 9)
    (hq : l ≤ 8 → q.toNat < 2 ^ (7 * l)) :
    ((q >>> (8 * (l - 1))).setWidth 8 &&& payloadMask l).setWidth 64 = q >>> (8 * (l - 1)) := by
  refine BitVec.eq_of_getLsbD_eq fun i hi => ?_
  simp only [BitVec.getLsbD_setWidth, BitVec.getLsbD_and, BitVec.getLsbD_ushiftRight,
    getLsbD_payloadMask, hi]
  by_cases hlow : i < 8 - l
  · simp [hlow, show i < 8 by omega]
  · have hzero : q.getLsbD (8 * (l - 1) + i) = false := by
      by_cases h8 : l ≤ 8
      · exact Nat.testBit_lt_two_pow (Nat.lt_of_lt_of_le (hq h8)
          (Nat.pow_le_pow_right (by decide) (by omega)))
      · exact BitVec.getLsbD_of_ge _ _ (by omega)
    simp [hlow, hzero]

/-- A window that opens with an encoding, whatever follows it, has the tier and the payload of that
encoding (44_fast_decoder.md R197). -/
theorem fdec_of_take_eq_fencBytes {p : Profile} {l : Nat} {q : BitVec 64} {win : Bytes 9}
    (h1 : 1 ≤ l) (h9 : l ≤ 9) (hq : l ≤ 8 → q.toNat < 2 ^ (7 * l))
    (hwin : win.toList.take l = fencBytes p l q) :
    fdec p win = (valueOf p l q, BitVec.ofNat 4 l) := by
  rw [fencBytes_eq_cons p h1 h9] at hwin
  have hfirst : win[0] = firstByte p l ((q >>> (8 * (l - 1))).setWidth 8) := by
    have h := congrArg (·[0]?) hwin
    simpa [List.getElem?_take, show 0 < l from h1] using h
  have hrest : (win.toList.drop 1).take (l - 1) = bigEndian (l - 1) q := by
    rw [← List.drop_take, hwin, List.drop_one, List.tail_cons]
  simp only [fdec, loopPayload]
  rw [hfirst, tierLength_firstByte p h1 h9, firstByte_and_payloadMask p h1 h9,
    topPayload_masked h1 h9 hq, hrest, foldl_bigEndian]

/-- `fdec` inverts `fenc` (43_fast_encoder.md R176). -/
theorem fdec_fenc (p : Profile) (v : BitVec 64) : fdec p (fenc p v).1 = (v, (fenc p v).2) := by
  obtain ⟨h1, h9⟩ := tierOf_bounds p v
  have hlength := fencBytes_length p (tierOf p v) (payloadOf p (tierOf p v) v) h9
  have hwin := padBytes_take 9 _ (hlength.trans_le h9)
  rw [hlength] at hwin
  rw [fenc, fdec_of_take_eq_fencBytes h1 h9 (payloadOf_lt p v) hwin, valueOf_payloadOf]

/-! ## Zero, uniqueness and the order of lengths (43_fast_encoder.md R176) -/

theorem fenc_buffer_eq_iff (p : Profile) (v v' : BitVec 64) :
    (fenc p v).1 = (fenc p v').1 ↔ v = v' := by
  refine ⟨fun h => ?_, fun h => by rw [h]⟩
  have hv := fdec_fenc p v
  rw [h, fdec_fenc] at hv
  exact (congrArg Prod.fst hv).symm

theorem tierOf_mono (p : Profile) {v v' : BitVec 64} (h : v.toNat ≤ v'.toNat) :
    tierOf p v ≤ tierOf p v' := by
  by_contra hlonger
  have hbelow := toNat_lt_tierLimit_tierOf p v'
  have habove := tierLimit_le_of_lt_tierOf p v (tierOf_bounds p v').1 (Nat.lt_of_not_le hlonger)
  omega

theorem sencBytes_zero_length (p : Profile) : (sencBytes p 0).length = 1 := by
  rw [sencBytes, encodeLoop_of_lt p 18 (by decide), List.length_singleton]

/-- The round trip, on the machine. -/
theorem exec_fdec_of_fenc {s t : State} (h : exec .fenc s = .next t) :
    ∃ u, exec .fdec { t with env := { t.env with winPort := t.fenc.fbuf } } = .next u ∧
      u.fdec.fout = t.fenc.fv ∧ u.fdec.fdlen = t.fenc.flen := by
  obtain ⟨u, hu⟩ := exec_next .fdec { t with env := { t.env with winPort := t.fenc.fbuf } }
  have hregs := fdec_regs_of_exec hu
  simp only [profile_of_exec_fenc h, fenc_regs_of_exec h, fdec_fenc] at hregs
  exact ⟨u, hu, by rw [hregs, fenc_regs_of_exec h], by rw [hregs, fenc_regs_of_exec h]⟩

/-- Settles O39: `fdec` inverts `fenc`, so an encoding stands for one value; and the tiers' ranges
are in order. -/
theorem fastCodecProperties : Obligations.FastCodecProperties := by
  refine ⟨fun s t h => exec_fdec_of_fenc h, ?fencZero, ?sencZero, ?unique, ?monotone⟩
  case fencZero =>
    intro s t h hzero
    rw [fenc_regs_of_exec h] at hzero ⊢
    rw [show s.env.opPort.setWidth 64 = 0 from hzero, fenc_flen, tierOf_eq_one (by decide)]
    rfl
  case sencZero =>
    intro i w s t hi hidle h hzero
    rw [exec_senc_of_idle hi hidle h, issue_senc] at hzero ⊢
    rw [startSenc_sVal] at hzero
    rw [startSenc_olen, hzero, sencBytes_zero_length]
    rfl
  case unique =>
    intro s s' t t' hp h h'
    rw [fenc_regs_of_exec h, fenc_regs_of_exec h', ← hp]
    exact ⟨(fenc_buffer_eq_iff _ _ _).symm, fun heq => congrArg (fun v => (fenc s.profile v).2) heq⟩
  case monotone =>
    intro s s' t t' hp h h' hle
    rw [fenc_regs_of_exec h, fenc_regs_of_exec h'] at hle ⊢
    simp only [fenc_flen_toNat, ← hp]
    exact tierOf_mono _ hle

end Sys2Proof.Machine
end

section
/-! PROOFS. 44_fast_decoder.md R191: what `FDEC` reads from its window, as numbers. -/

namespace Sys2Proof.Machine

/-! ## The run of length bits (30_encoding.md R96) -/

theorem getLsbD_of_lt_onesFrom {n k : Nat} {b : Byte} (h : k < onesFrom n b) :
    b.getLsbD (n - 1 - k) = true := by
  induction n generalizing k with
  | zero => simp [onesFrom] at h
  | succ n ih =>
    rw [onesFrom] at h
    split at h
    next hset =>
      cases k with
      | zero => exact hset
      | succ k =>
        have hbit := ih (Nat.lt_of_succ_lt_succ h)
        rwa [show n + 1 - 1 - (k + 1) = n - 1 - k by omega]
    next => exact absurd h (Nat.not_lt_zero k)

theorem getLsbD_onesFrom {n : Nat} {b : Byte} (h : onesFrom n b < n) :
    b.getLsbD (n - (onesFrom n b + 1)) = false := by
  induction n with
  | zero => exact absurd h (Nat.not_lt_zero _)
  | succ n ih =>
    rw [onesFrom] at h ⊢
    split at h
    next hset =>
      have hbit := ih (Nat.lt_of_succ_lt_succ h)
      rwa [if_pos hset, Nat.add_sub_add_right]
    next hclear => rw [if_neg hclear]; exact Bool.eq_false_of_not_eq_true hclear

theorem getLsbD_xor_ones (b : Byte) {k : Nat} (hk : k < 8) :
    (b ^^^ 0xFF#8).getLsbD k = !b.getLsbD k := by
  have hones : 0xFF#8 = BitVec.allOnes 8 := rfl
  rw [hones, BitVec.xor_allOnes, BitVec.getLsbD_not, decide_eq_true hk, Bool.true_and]

/-- The bits before the last length bit repeat the prefix's bit. -/
theorem getLsbD_of_lt_tierLength {p : Profile} {b : Byte} {k : Nat} (h : k + 1 < tierLength p b) :
    b.getLsbD (7 - k) = decide (p.pfx = .ones) := by
  unfold tierLength clz8 clo8 at h
  cases hp : p.pfx <;> rw [hp] at h
  case ones => exact getLsbD_of_lt_onesFrom (Nat.lt_of_succ_lt_succ h)
  case zeros =>
    have hbit := getLsbD_of_lt_onesFrom (Nat.lt_of_succ_lt_succ h)
    rw [getLsbD_xor_ones b (by omega), Bool.not_eq_true'] at hbit
    exact hbit

/-- In tiers 1 to 8 the run ends inside the first byte. -/
theorem getLsbD_tierLength {p : Profile} {b : Byte} (h8 : tierLength p b ≤ 8) :
    b.getLsbD (8 - tierLength p b) = !decide (p.pfx = .ones) := by
  unfold tierLength clz8 clo8 at h8 ⊢
  cases hp : p.pfx <;> rw [hp] at h8
  case ones => exact getLsbD_onesFrom h8
  case zeros =>
    have hbit := getLsbD_onesFrom h8
    rw [getLsbD_xor_ones b (by omega), Bool.not_eq_false'] at hbit
    exact hbit

/-! ## The payload -/

theorem and_payloadMask_toNat (b : Byte) (l : Nat) :
    (b &&& payloadMask l).toNat = b.toNat % 2 ^ (8 - l) := by
  refine Nat.eq_of_testBit_eq fun j => ?_
  rw [Nat.testBit_mod_two_pow, BitVec.testBit_toNat, BitVec.testBit_toNat, BitVec.getLsbD_and,
    getLsbD_payloadMask, Bool.and_comm]

/-- One pass of the loop of R191, modulo `2^64`. -/
theorem appendByte_toNat (q : BitVec 64) (b : Byte) :
    (q <<< 8 ||| b.setWidth 64).toNat = (q.toNat * 256 + b.toNat) % 2 ^ 64 := by
  rw [BitVec.toNat_or, BitVec.toNat_shiftLeft, BitVec.toNat_setWidth, ← Nat.or_mod_two_pow,
    ← Nat.shiftLeft_add_eq_or_of_lt b.isLt, Nat.shiftLeft_eq]

theorem foldl_appendByte_toNat (bs : List Byte) {q : BitVec 64} {n : Nat}
    (h : q.toNat = n % 2 ^ 64) :
    (bs.foldl (fun (q : BitVec 64) b => q <<< 8 ||| b.setWidth 64) q).toNat =
      bs.foldl (fun n b => n * 256 + b.toNat) n % 2 ^ 64 := by
  induction bs generalizing q n with
  | nil => exact h
  | cons b bs ih =>
    have hpass : (q <<< 8 ||| b.setWidth 64).toNat = (n * 256 + b.toNat) % 2 ^ 64 := by
      rw [appendByte_toNat, h]
      omega
    exact ih hpass

theorem take_drop_one_eq_map_range (win : Bytes 9) {n : Nat} (hn : n ≤ 8) :
    (win.toList.drop 1).take n = (List.range n).map fun k => (win.toList[k + 1]?).getD 0 := by
  refine List.ext_getElem (by simpa using hn) fun k hk hk' => ?_
  have hlt : k < n := by simpa using hk'
  simp [show k + 1 < 9 by omega]

/-- The loop of R191 computes the payload, modulo `2^64`. -/
theorem loopPayload_toNat (win : Bytes 9) {l : Nat} (h9 : l ≤ 9) :
    (loopPayload l (win[0] &&& payloadMask l) win).toNat = payloadNat l win % 2 ^ 64 := by
  have hfirst : ((win[0] &&& payloadMask l).setWidth 64).toNat =
      win[0].toNat % 2 ^ (8 - l) % 2 ^ 64 := by
    rw [BitVec.toNat_setWidth, and_payloadMask_toNat]
  rw [loopPayload, foldl_appendByte_toNat _ hfirst, take_drop_one_eq_map_range win (by omega),
    List.foldl_map, payloadNat]

theorem valueOf_toNat (p : Profile) (l : Nat) (q : BitVec 64) :
    (valueOf p l q).toNat = (q.toNat + if p.tier = .offset then off l else 0) % 2 ^ 64 := by
  unfold valueOf
  cases p.tier with
  | offset => simp
  | absolute => simp [Nat.mod_eq_of_lt q.isLt]

/-! ## The command -/

theorem exec_fdec_eq_finishFdec (s : State) :
    exec .fdec s = .next (finishFdec s.env.winPort (tierLength s.profile s.env.winPort[0])
      (loopPayload (tierLength s.profile s.env.winPort[0])
        (s.env.winPort[0] &&& payloadMask (tierLength s.profile s.env.winPort[0])) s.env.winPort)
      s) := rfl

/-- Settles O33: the tier is the run of length bits, and the loop's payload is the payload's number
modulo `2^64`. -/
theorem fdecResult : Obligations.FdecResult := by
  refine ⟨fun s => ?result, fun s t hp hwin h => ?worked⟩
  case result =>
    obtain ⟨h1, h9⟩ := tierLength_bounds s.profile s.env.winPort[0]
    refine ⟨_, tierLength s.profile s.env.winPort[0], exec_fdec_eq_finishFdec s, h1, h9, rfl,
      finishFdec_fwin .., ?length, finishFdec_gValid .., fun k => getLsbD_of_lt_tierLength,
      getLsbD_tierLength, ?value⟩
    case length =>
      rw [finishFdec_fdlen, BitVec.toNat_ofNat]
      exact Nat.mod_eq_of_lt (by omega)
    case value =>
      rw [finishFdec_fout, valueOf_toNat, loopPayload_toNat _ h9, Nat.mod_add_mod,
        finishFdec_fwin]
  case worked =>
    rw [fdec_regs_of_exec h, hp, hwin]
    decide

end Sys2Proof.Machine
end

section
/-! PROOFS. 60_exceptions.md R212 and R213: what raises `Overflow` and `Io`, over every step of the
machine. -/

namespace Sys2Proof.Machine

/-! ## Status and token, which show how an operation ended -/

/-- `SENC` shows the same outcome before and after. -/
structure SencResultKept (r r' : SencRegs) : Prop where
  status : r'.sStatus = r.sStatus
  token : r'.sEtok = r.sEtok

/-- `SDEC` shows the same outcome before and after. -/
structure SdecResultKept (d d' : SdecRegs) : Prop where
  status : d'.dStatus = d.dStatus
  token : d'.dEtok = d.dEtok

/-- Taking a result leaves the registers that show it (60_exceptions.md R219). -/
theorem takeResult_keepsResults (u : UnitId) (s : State) :
    SencResultKept s.senc (takeResult u s).senc ∧
      SdecResultKept s.sdec (takeResult u s).sdec := by
  rcases takeResult_cases u s with ⟨-, h⟩ | ⟨r, -, h⟩ <;> rw [h]
  · exact ⟨⟨rfl, rfl⟩, rfl, rfl⟩
  · cases u <;> exact ⟨⟨rfl, rfl⟩, rfl, rfl⟩

/-! ## The instructions -/

/-- No instruction ends an operation of `SENC`, and only a source byte ends one of `SDEC`:
acceptance leaves status and token alone (10_state.md R28, R29). -/
theorem exec_keepsResults {i : Instr} {s t : State} (h : exec i s = .next t) :
    SencResultKept s.senc t.senc ∧
      ((∀ g, i ∉ [.svlqByteMore g, .svlqByteLast g]) → SdecResultKept s.sdec t.sdec) := by
  rcases exec_cases i s with ⟨w, -, hi⟩ | ⟨w, -, hi⟩ | ⟨c, g, hrow, hi⟩ | ⟨-, hi⟩ |
    ⟨-, win, l, q, -, -, hi⟩ <;> rw [hi] at h
  · rcases sencCommand_cases w s with ⟨-, hc⟩ | ⟨-, hc⟩ <;> cases hc.symm.trans h <;>
      exact ⟨⟨rfl, rfl⟩, fun _ => ⟨rfl, rfl⟩⟩
  · rcases sdecCommand_cases w s with ⟨-, hc⟩ | ⟨-, hc⟩ <;> cases hc.symm.trans h <;>
      exact ⟨⟨rfl, rfl⟩, fun _ => ⟨rfl, rfl⟩⟩
  · have hbyte : i ∈ [.svlqByteMore g, .svlqByteLast g] := by
      rcases hrow with ⟨rfl, -⟩ | ⟨rfl, -⟩ <;> simp
    rcases deliverByte_cases c g s with ⟨-, hd⟩ | ⟨-, hd⟩ <;> cases hd.symm.trans h <;>
      exact ⟨⟨rfl, rfl⟩, fun hno => absurd hbyte (hno g)⟩
  · cases h
    exact ⟨⟨rfl, rfl⟩, fun _ => ⟨rfl, rfl⟩⟩
  · cases h
    exact ⟨⟨rfl, rfl⟩, fun _ => ⟨rfl, rfl⟩⟩

/-- A command word spells no source byte (30_encoding.md R100). -/
theorem not_byte_of_decodeCommand {c : BitVec 5} {i : Instr} (h : decodeCommand c = some i)
    (g : BitVec 7) : i ∉ [.svlqByteMore g, .svlqByteLast g] := by
  unfold decodeCommand at h
  split at h <;> cases h <;> simp

/-- The first byte of a window spells no source byte (30_encoding.md R91). -/
theorem decodeWindow_not_byte (p : Profile) (b : Byte) (g : BitVec 7) :
    decodeWindow p b ∉ [.svlqByteMore g, .svlqByteLast g] := by
  unfold decodeWindow
  split <;> simp

/-! ## Only an answer ends an operation -/

/-- The registers of `SENC` after the sink's answer in WRITE (10_state.md R28). -/
def sencAnswered (r : SencRegs) : SinkAnswer → SencRegs
  | .ok => finishSenc r
  | .reject e => raiseSenc (.io e) r

theorem sinkAnswer_senc (a : SinkAnswer) (s : State) :
    (sinkAnswer a s).senc = sencAnswered s.senc a := by
  cases a <;> rfl

/-- A step leaves status and token of `SENC` alone, or is the sink's answer in WRITE. -/
theorem step_sencResult {s t : State} (h : step s = .next t) :
    SencResultKept s.senc t.senc ∨
      ∃ rest a answers, s.env.sched = .sink :: rest ∧ s.senc.sState = .write ∧
        s.env.snkAnswers = a :: answers ∧ t.senc = sencAnswered s.senc a := by
  rcases step_cases h with ⟨-, rfl⟩ | ⟨a, rest, hsched, hcase⟩
  · exact .inl ⟨rfl, rfl⟩
  rcases hcase with rfl | ⟨u, c, others, i, -, -, -, -, hexec⟩ | ⟨b, answers, -, -, -, hexec⟩ |
    ⟨e, answers, -, -, -, rfl⟩ | ⟨w, answers, rfl, hwrite, hans, rfl⟩ | ⟨u, -, rfl⟩ |
    ⟨win, -, hexec⟩
  · exact .inl ⟨rfl, rfl⟩
  · exact .inl (by simpa using (exec_keepsResults hexec).1)
  · exact .inl (by simpa using (exec_keepsResults hexec).1)
  · exact .inl ⟨rfl, rfl⟩
  · exact .inr ⟨rest, w, answers, hsched, hwrite, hans, sinkAnswer_senc _ _⟩
  · exact .inl (takeResult_keepsResults u (popEvent rest s)).1
  · exact .inl (by simpa using (exec_keepsResults hexec).1)

/-- A step leaves status and token of `SDEC` alone, or is the source's answer in READ. -/
theorem step_sdecResult {s t : State} (h : step s = .next t) :
    SdecResultKept s.sdec t.sdec ∨
      ∃ rest a answers, s.env.sched = .source :: rest ∧ s.sdec.dState = .read ∧
        s.env.srcAnswers = a :: answers ∧ t.sdec = sdecAnswered s.profile s.sdec a := by
  have answered {rest : List Action} {a : SrcAnswer} {answers : List SrcAnswer}
      (hsched : s.env.sched = .source :: rest) (hread : s.sdec.dState = .read)
      (hans : s.env.srcAnswers = a :: answers) : t.sdec = sdecAnswered s.profile s.sdec a := by
    obtain ⟨t', ht', -, -, -, hsdec⟩ := step_source_of_answer hsched hread hans
    cases ht'.symm.trans h
    exact hsdec
  rcases step_cases h with ⟨-, rfl⟩ | ⟨a, rest, hsched, hcase⟩
  · exact .inl ⟨rfl, rfl⟩
  rcases hcase with rfl | ⟨u, c, others, i, -, -, hword, -, hexec⟩ |
    ⟨b, answers, rfl, hread, hans, -⟩ | ⟨e, answers, rfl, hread, hans, -⟩ |
    ⟨w, answers, -, -, -, rfl⟩ | ⟨u, -, rfl⟩ | ⟨win, -, hexec⟩
  · exact .inl ⟨rfl, rfl⟩
  · exact .inl (by simpa using (exec_keepsResults hexec).2 (not_byte_of_decodeCommand hword))
  · exact .inr ⟨rest, _, answers, hsched, hread, hans, answered hsched hread hans⟩
  · exact .inr ⟨rest, _, answers, hsched, hread, hans, answered hsched hread hans⟩
  · exact .inl (by cases w <;> exact ⟨rfl, rfl⟩)
  · exact .inl (takeResult_keepsResults u (popEvent rest s)).2
  · exact .inl (by simpa using (exec_keepsResults hexec).2 (decodeWindow_not_byte _ _))

/-! ## The byte step -/

/-- The overflow test comes first, whatever the continuation bit (42_std_decoder.md R145). -/
theorem byteStep_of_tooWide {p : Profile} {c : BitVec 1} {g : BitVec 7} {d : SdecRegs}
    (h : tooWide d.dW.bits d.gi.toNat g) : byteStep p c g d = raiseSdec .overflow d := by
  rcases byteStep_cases p c g d with ⟨-, hd⟩ | ⟨hfits, -⟩
  · exact hd
  · exact absurd h hfits

/-- A group that fits raises nothing: the operation goes on as it was, or ends with `OK`. -/
theorem byteStep_result_of_fits {p : Profile} {c : BitVec 1} {g : BitVec 7} {d : SdecRegs}
    (h : ¬ tooWide d.dW.bits d.gi.toNat g) :
    (byteStep p c g d).dState = d.dState ∧ SdecResultKept d (byteStep p c g d) ∨
      (byteStep p c g d).dState = .done ∧ (byteStep p c g d).dStatus = .ok := by
  rcases byteStep_cases p c g d with ⟨hwide, -⟩ | ⟨-, acc, -, ⟨-, hd⟩ | ⟨-, hd⟩⟩
  · exact absurd hwide h
  · rw [hd]
    exact .inr ⟨rfl, rfl⟩
  · rw [hd]
    exact .inl ⟨rfl, rfl, rfl⟩

/-- Either byte row in READ is the byte step on the registers of `SDEC`. -/
theorem exec_byte_sdec {i : Instr} {g : BitVec 7} {s : State}
    (hi : i ∈ [.svlqByteMore g, .svlqByteLast g]) (hread : s.sdec.dState = .read) :
    ∃ c t, exec i s = .next t ∧ t.sdec = byteStep s.profile c g s.sdec := by
  obtain ⟨c, hc⟩ : ∃ c, exec i s = deliverByte c g s := by
    simp only [List.mem_cons, List.not_mem_nil, or_false] at hi
    rcases hi with rfl | rfl
    · exact ⟨contMore s.profile, rfl⟩
    · exact ⟨contLast s.profile, rfl⟩
  rcases deliverByte_cases c g s with ⟨-, hd⟩ | ⟨hbusy, -⟩
  · exact ⟨c, _, hc.trans hd, rfl⟩
  · exact absurd hread hbusy

/-! ## Which answers raise what -/

/-- The sink's answer gives `SENC` no `OVERFLOW`. -/
theorem sencAnswered_sStatus_ne_overflow (r : SencRegs) (a : SinkAnswer) :
    (sencAnswered r a).sStatus ≠ .overflow := by
  cases a <;> simp [sencAnswered, excStatus]

/-- Only a rejected write gives `SENC` the status `IO`, and the token is the sink's. -/
theorem reject_of_sencAnswered_io {r : SencRegs} {a : SinkAnswer}
    (h : (sencAnswered r a).sStatus = .io) : ∃ e, a = .reject e ∧ (sencAnswered r a).sEtok = e := by
  cases a with
  | ok => nomatch h
  | reject e => exact ⟨e, rfl, rfl⟩

/-- Only a byte whose group is too wide gives `SDEC` the status `OVERFLOW`. -/
theorem tooWide_of_sdecAnswered_overflow {p : Profile} {d : SdecRegs} {a : SrcAnswer}
    (h : (sdecAnswered p d a).dStatus = .overflow) (hold : d.dStatus ≠ .overflow) :
    ∃ b, a = .byte b ∧ tooWide d.dW.bits d.gi.toNat (groupBits b) := by
  cases a with
  | fail e => nomatch h
  | byte b =>
    refine ⟨b, rfl, by_contra fun hfits => ?_⟩
    rcases byteStep_result_of_fits hfits with ⟨-, hkept⟩ | ⟨-, hok⟩
    · exact hold (hkept.status.symm.trans h)
    · nomatch hok.symm.trans h

/-- An answer that leaves `SDEC` with `IO` left the outcome alone, or was a failed read, and the
token is the source's. -/
theorem fail_of_sdecAnswered_io {p : Profile} {d : SdecRegs} {a : SrcAnswer}
    (h : (sdecAnswered p d a).dStatus = .io) :
    SdecResultKept d (sdecAnswered p d a) ∨ ∃ e, a = .fail e ∧ (sdecAnswered p d a).dEtok = e := by
  cases a with
  | fail e => exact .inr ⟨e, rfl, rfl⟩
  | byte b =>
    by_cases hwide : tooWide d.dW.bits d.gi.toNat (groupBits b)
    · rw [sdecAnswered, byteStep_of_tooWide hwide] at h
      nomatch h
    · rcases byteStep_result_of_fits hwide with ⟨-, hkept⟩ | ⟨-, hok⟩
      · exact .inl hkept
      · nomatch hok.symm.trans h

/-! ## The two causes -/

/-- Settles O22: the byte step tests the group first, and no answer but such a byte gives a unit the
status `OVERFLOW`. -/
theorem overflowCauseExactly : Obligations.OverflowCauseExactly := by
  refine ⟨?byte, fun s t h => ⟨?senc, ?sdec⟩⟩
  case byte =>
    intro i g s hi hread
    obtain ⟨c, t, ht, hsdec⟩ := exec_byte_sdec hi hread
    refine ⟨t, ht, fun hwide => ?_, fun hfits => ?_⟩
    · rw [hsdec, byteStep_of_tooWide hwide, raiseSdec, excStatus, excToken]
    · rw [hsdec]
      exact (byteStep_result_of_fits hfits).imp_left
        fun ⟨hphase, hkept⟩ => ⟨hphase.trans hread, hkept.status⟩
  case senc =>
    intro hover
    rcases step_sencResult h with hkept | ⟨rest, a, answers, -, -, -, hsenc⟩
    · exact hkept.status.symm.trans hover
    · exact absurd (hsenc ▸ hover) (sencAnswered_sStatus_ne_overflow _ a)
  case sdec =>
    intro hover hold
    rcases step_sdecResult h with hkept | ⟨rest, a, answers, hsched, hread, hans, hsdec⟩
    · exact absurd (hkept.status.symm.trans hover) hold
    · obtain ⟨b, rfl, hwide⟩ := tooWide_of_sdecAnswered_overflow (hsdec ▸ hover) hold
      exact ⟨rest, b, answers, hsched, hread, hans, hwide⟩

/-- Settles O24: a failed read and a rejected write raise `Io` with their token, and no other answer
gives a unit the status `IO`. -/
theorem ioCauseExactly : Obligations.IoCauseExactly := by
  refine ⟨?fail, ?reject, fun s t h => ⟨?sdec, ?senc⟩⟩
  case fail =>
    intro s rest e answers hsched hread hans
    exact ⟨_, step_source_of_fail hsched hread hans, rfl, rfl, rfl⟩
  case reject =>
    intro s rest e answers hsched hwrite hans
    exact ⟨_, step_sink_of_answer hsched hwrite hans, rfl, rfl⟩
  case sdec =>
    intro hio
    rcases step_sdecResult h with hkept | ⟨rest, a, answers, hsched, hread, hans, hsdec⟩
    · exact .inl ⟨hkept.status, hkept.token⟩
    · rw [hsdec] at hio ⊢
      rcases fail_of_sdecAnswered_io hio with hkept | ⟨e, rfl, htok⟩
      · exact .inl ⟨hkept.status, hkept.token⟩
      · exact .inr ⟨rest, e, answers, hsched, hread, hans, htok⟩
  case senc =>
    intro hio
    rcases step_sencResult h with hkept | ⟨rest, a, answers, hsched, hwrite, hans, hsenc⟩
    · exact .inl ⟨hkept.status, hkept.token⟩
    · rw [hsenc] at hio ⊢
      obtain ⟨e, rfl, htok⟩ := reject_of_sencAnswered_io hio
      exact .inr ⟨rest, e, answers, hsched, hwrite, hans, htok⟩

end Sys2Proof.Machine
end

section
/-! PROOFS. 30_encoding.md R81, R91, R93 and R100, 44_fast_decoder.md R192: the words and bytes of
the three formats, and that encoder and decoder agree on them. -/

namespace Sys2Proof.Machine

/-! ## Command words (30_encoding.md R100) -/

/-- Settles O1: the table has 32 words. -/
theorem commandWordsAsTabled : Obligations.CommandWordsAsTabled := by
  unfold Obligations.CommandWordsAsTabled
  decide

/-- A command word spells an operation that is encoded as that word. -/
theorem encode_of_mem_decodeCommand :
    ∀ c : BitVec 5, ∀ i ∈ decodeCommand c,
      i.wf = true ∧ encode Config.defaultProfile i = (.command, c.setWidth 8) := by
  decide

/-- Command words do not depend on the profile (00_scope.md R7). -/
theorem encode_of_command {i : Instr} {p p' : Profile} (h : (encode p i).1 = .command) :
    encode p' i = encode p i := by
  cases i <;> simp only [encode, reduceCtorEq] at h ⊢

theorem encode_of_decodeCommand {c : BitVec 5} {i : Instr} (h : decodeCommand c = some i)
    (p : Profile) : i.wf = true ∧ encode p i = (.command, c.setWidth 8) := by
  obtain ⟨hwf, hword⟩ := encode_of_mem_decodeCommand c i h
  exact ⟨hwf, (encode_of_command (by rw [hword])).trans hword⟩

theorem decode_encode_command {i : Instr} (p : Profile)
    (h : (encode Config.defaultProfile i).1 = .command) :
    decode p (encode p i).1 (encode p i).2 = some i := by
  have hword : decodeCommand ((encode Config.defaultProfile i).2.setWidth 5) = some i :=
    commandFor_decodes i 0 h
  have hfive : (encode Config.defaultProfile i).2.toNat < 32 := by
    cases i <;> simp only [encode, reduceCtorEq] at h ⊢ <;> decide
  rw [encode_of_command h, h, decode, if_pos hfive, hword]

/-! ## Source bytes (30_encoding.md R81) -/

theorem decodeSource_last (p : Profile) (g : BitVec 7) :
    decodeSource p (wireByte (contLast p) g) = .svlqByteLast g := by
  rw [decodeSource, contBit_wireByte, groupBits_wireByte, if_pos rfl]

theorem decodeSource_more (p : Profile) (g : BitVec 7) :
    decodeSource p (wireByte (contMore p) g) = .svlqByteMore g := by
  rw [decodeSource, contBit_wireByte, groupBits_wireByte, if_neg (contMore_ne_contLast p)]

/-- A byte is its continuation bit over its group (30_encoding.md R80). -/
theorem wireByte_contBit_groupBits (b : Byte) : wireByte (contBit b) (groupBits b) = b := by
  rw [wireByte, contBit, groupBits, BitVec.extractLsb'_append_extractLsb'_eq_extractLsb' (by rfl)]
  exact BitVec.extractLsb'_eq_self

theorem encode_decodeSource (p : Profile) (b : Byte) :
    (decodeSource p b).wf = true ∧ encode p (decodeSource p b) = (.source, b) := by
  by_cases hlast : contBit b = contLast p
  · rw [decodeSource, if_pos hlast, encode, ← hlast, wireByte_contBit_groupBits]
    exact ⟨rfl, rfl⟩
  · rw [decodeSource, if_neg hlast, encode, ← eq_contMore_of_ne_contLast hlast,
      wireByte_contBit_groupBits]
    exact ⟨rfl, rfl⟩

/-! ## First bytes of a window (30_encoding.md R91)

The nine rows as one function of the tier. -/

/-- The row of tier `l`; `h` holds the payload bits, of which tiers 8 and 9 have none. -/
def tierRow (l : Nat) (h : Byte) : Instr :=
  match l with
  | 1 => .fvlqTier1 h
  | 2 => .fvlqTier2 h
  | 3 => .fvlqTier3 h
  | 4 => .fvlqTier4 h
  | 5 => .fvlqTier5 h
  | 6 => .fvlqTier6 h
  | 7 => .fvlqTier7 h
  | 8 => .fvlqTier8
  | _ => .fvlqTier9

theorem eq_tierRow_of_mem {h : Byte} {i : Instr} {l : Nat} (hi : (i, l) ∈ tierRows h) :
    i = tierRow l h ∧ 1 ≤ l ∧ l ≤ 9 := by
  simp only [tierRows, List.mem_cons, Prod.mk.injEq, List.not_mem_nil, or_false] at hi
  rcases hi with ⟨rfl, rfl⟩ | ⟨rfl, rfl⟩ | ⟨rfl, rfl⟩ | ⟨rfl, rfl⟩ | ⟨rfl, rfl⟩ | ⟨rfl, rfl⟩ |
    ⟨rfl, rfl⟩ | ⟨rfl, rfl⟩ | ⟨rfl, rfl⟩ <;> exact ⟨rfl, by decide, by decide⟩

theorem decodeWindow_eq_tierRow (p : Profile) (b : Byte) :
    decodeWindow p b = tierRow (tierLength p b) (b &&& payloadMask (tierLength p b)) := by
  unfold decodeWindow
  split <;> simp_all [tierRow]

theorem encode_tierRow (p : Profile) {l : Nat} (h1 : 1 ≤ l) (h9 : l ≤ 9) (h : Byte) :
    encode p (tierRow l h) = (.window, firstByte p l h) := by
  interval_cases l <;> simp [tierRow, encode, firstByte, payloadMask]

theorem wf_tierRow {l : Nat} (h1 : 1 ≤ l) (h9 : l ≤ 9) (h : Byte) :
    (tierRow l h).wf = true ↔ (l ≤ 7 → h.toNat < 2 ^ (8 - l)) := by
  interval_cases l <;> simp [tierRow, Instr.wf]

/-- A payload field in its place is all that the row keeps of a byte. -/
theorem tierRow_and_payloadMask {l : Nat} {h : Byte} (h1 : 1 ≤ l) (h9 : l ≤ 9)
    (hwf : (tierRow l h).wf = true) : tierRow l (h &&& payloadMask l) = tierRow l h := by
  by_cases h7 : l ≤ 7
  · have hfits := (wf_tierRow h1 h9 h).1 hwf h7
    congr 1
    refine BitVec.eq_of_toNat_eq ?_
    rw [and_payloadMask_toNat, Nat.mod_eq_of_lt hfits]
  · interval_cases l <;> rfl

theorem wf_tierRow_and_payloadMask {l : Nat} (h1 : 1 ≤ l) (h9 : l ≤ 9) (h : Byte) :
    (tierRow l (h &&& payloadMask l)).wf = true := by
  rw [wf_tierRow h1 h9, and_payloadMask_toNat]
  exact fun _ => Nat.mod_lt _ (Nat.two_pow_pos _)

theorem decodeWindow_firstByte {p : Profile} {l : Nat} {h : Byte} (h1 : 1 ≤ l) (h9 : l ≤ 9)
    (hwf : (tierRow l h).wf = true) : decodeWindow p (firstByte p l h) = tierRow l h := by
  rw [decodeWindow_eq_tierRow, tierLength_firstByte p h1 h9, firstByte_and_payloadMask p h1 h9,
    tierRow_and_payloadMask h1 h9 hwf]

theorem decode_encode_tierRow {p : Profile} {l : Nat} {h : Byte} (h1 : 1 ≤ l) (h9 : l ≤ 9)
    (hwf : (tierRow l h).wf = true) :
    decode p (encode p (tierRow l h)).1 (encode p (tierRow l h)).2 = some (tierRow l h) := by
  rw [encode_tierRow p h1 h9, decode, decodeWindow_firstByte h1 h9 hwf]

/-- The bits of `emptyFirstByte`: the run, then its end. -/
theorem getLsbD_emptyFirstByte (p : Profile) {l j : Nat} (h1 : 1 ≤ l) (h9 : l ≤ 9) (hj : j < 8) :
    (emptyFirstByte p l).getLsbD j =
      (decide (8 ≤ j + l) && (decide (p.pfx = .ones) != decide (j + l = 8))) := by
  unfold emptyFirstByte
  cases p.pfx <;> interval_cases l <;> revert j <;> decide

/-- The length bits of a byte are those of its tier. -/
theorem firstByte_tierLength (p : Profile) (b : Byte) :
    firstByte p (tierLength p b) (b &&& payloadMask (tierLength p b)) = b := by
  obtain ⟨h1, h9⟩ := tierLength_bounds p b
  have hrun := @getLsbD_of_lt_tierLength p b
  have hend := @getLsbD_tierLength p b
  generalize tierLength p b = l at h1 h9 hrun hend ⊢
  refine BitVec.eq_of_getLsbD_eq fun j hj => ?_
  simp only [firstByte, BitVec.getLsbD_or, BitVec.getLsbD_and, getLsbD_payloadMask,
    getLsbD_emptyFirstByte p h1 h9 hj]
  rcases Nat.lt_trichotomy (j + l) 8 with hpayload | hlast | hlength
  · simp [show ¬ 8 ≤ j + l by omega, show j < 8 - l by omega]
  · have hbit := hend (by omega)
    rw [show 8 - l = j by omega] at hbit
    simp [hlast, hbit]
  · have hbit := hrun (k := 7 - j) (by omega)
    rw [show 7 - (7 - j) = j by omega] at hbit
    simp [hlength.le, show j + l ≠ 8 by omega, show ¬ j < 8 - l by omega, hbit]

theorem encode_decodeWindow (p : Profile) (b : Byte) :
    (decodeWindow p b).wf = true ∧ encode p (decodeWindow p b) = (.window, b) := by
  obtain ⟨h1, h9⟩ := tierLength_bounds p b
  rw [decodeWindow_eq_tierRow, encode_tierRow p h1 h9, firstByte_tierLength]
  exact ⟨wf_tierRow_and_payloadMask h1 h9 b, rfl⟩

/-! ## Encoder and decoder -/

/-- Settles O3: a command word by the table, a source byte by its two fields, a first byte by its
length bits and its payload field. -/
theorem decodeOfEncodeIsTheInstruction : Obligations.DecodeOfEncodeIsTheInstruction := by
  intro p i hwf
  cases i with
  | svlqByteMore g => exact congrArg some (decodeSource_more p g)
  | svlqByteLast g => exact congrArg some (decodeSource_last p g)
  | fvlqTier1 h => exact decode_encode_tierRow (l := 1) (by decide) (by decide) hwf
  | fvlqTier2 h => exact decode_encode_tierRow (l := 2) (by decide) (by decide) hwf
  | fvlqTier3 h => exact decode_encode_tierRow (l := 3) (by decide) (by decide) hwf
  | fvlqTier4 h => exact decode_encode_tierRow (l := 4) (by decide) (by decide) hwf
  | fvlqTier5 h => exact decode_encode_tierRow (l := 5) (by decide) (by decide) hwf
  | fvlqTier6 h => exact decode_encode_tierRow (l := 6) (by decide) (by decide) hwf
  | fvlqTier7 h => exact decode_encode_tierRow (l := 7) (by decide) (by decide) hwf
  | fvlqTier8 => exact decode_encode_tierRow (l := 8) (h := 0) (by decide) (by decide) hwf
  | fvlqTier9 => exact decode_encode_tierRow (l := 9) (h := 0) (by decide) (by decide) hwf
  | senc8 | senc16 | senc32 | senc64 | senc128 | sdec8 | sdec16 | sdec32 | sdec64 | sdec128 | fenc
  | fdec => exact decode_encode_command p rfl

/-- Settles O4: at each port no bit of the byte is dropped. -/
theorem encodeOfDecodeIsTheByte : Obligations.EncodeOfDecodeIsTheByte := by
  intro p port b i h
  cases port with
  | command =>
    rw [decode, Option.ite_none_right_eq_some] at h
    obtain ⟨hfive, hword⟩ := h
    obtain ⟨hwf, henc⟩ := encode_of_decodeCommand hword p
    refine ⟨hwf, henc.trans (congrArg _ (BitVec.eq_of_toNat_eq ?_))⟩
    rw [BitVec.toNat_setWidth, BitVec.toNat_setWidth]
    omega
  | source =>
    cases h
    exact encode_decodeSource p b
  | window =>
    cases h
    exact encode_decodeWindow p b

/-- Settles O2: each byte's fields are read off its bits. -/
theorem wireBytesAsTabled : Obligations.WireBytesAsTabled := by
  unfold Obligations.WireBytesAsTabled
  decide

/-! ## The ranges of first bytes (44_fast_decoder.md R192) -/

/-- The bits of `b` below bit `k` open with `l` ones when the top `l` of them are all set. -/
theorem le_onesFrom_iff (b : Byte) {k l : Nat} (hl : l ≤ k) :
    l ≤ onesFrom k b ↔ 2 ^ k ≤ b.toNat % 2 ^ k + 2 ^ (k - l) := by
  induction k generalizing l with
  | zero => simp [Nat.le_zero.1 hl]
  | succ k ih =>
    have hlow := Nat.mod_lt b.toNat (Nat.two_pow_pos k)
    rw [Nat.mod_pow_succ, onesFrom, BitVec.getLsbD, Nat.testBit_eq_decide_div_mod_eq]
    cases l with
    | zero => simp
    | succ m =>
      have hrest := ih (Nat.le_of_succ_le_succ hl)
      have hpow : 2 ^ (k - m) ≤ 2 ^ k := Nat.pow_le_pow_right (by decide) (Nat.sub_le k m)
      rw [Nat.add_sub_add_right, Nat.pow_succ]
      rcases Nat.mod_two_eq_zero_or_one (b.toNat / 2 ^ k) with hbit | hbit <;> simp [hbit] <;> omega

/-- The run of ones by the ranges of the whole byte. -/
theorem le_clo8_iff (b : Byte) {l : Nat} (hl : l ≤ 8) :
    l ≤ clo8 b ↔ 256 ≤ b.toNat + 2 ^ (8 - l) := by
  rw [clo8, le_onesFrom_iff b hl, Nat.mod_eq_of_lt b.isLt]
  rfl

theorem clo8_eq (b : Byte) :
    clo8 b + 1 =
      (if b.toNat ≤ 0x7F then 1 else if b.toNat ≤ 0xBF then 2 else if b.toNat ≤ 0xDF then 3
       else if b.toNat ≤ 0xEF then 4 else if b.toNat ≤ 0xF7 then 5 else if b.toNat ≤ 0xFB then 6
       else if b.toNat ≤ 0xFD then 7 else if b.toNat ≤ 0xFE then 8 else 9) := by
  have hle : clo8 b ≤ 8 := onesFrom_le 8 b
  have hbounds {l : Nat} (hl : l ≤ 8) := le_clo8_iff b hl
  have h1 := hbounds (l := 1) (by decide)
  have h2 := hbounds (l := 2) (by decide)
  have h3 := hbounds (l := 3) (by decide)
  have h4 := hbounds (l := 4) (by decide)
  have h5 := hbounds (l := 5) (by decide)
  have h6 := hbounds (l := 6) (by decide)
  have h7 := hbounds (l := 7) (by decide)
  have h8 := hbounds (l := 8) (by decide)
  split_ifs <;> omega

/-- Under `ZEROS` the ranges are those of the complement. -/
theorem xor_ones_toNat (b : Byte) : (b ^^^ 0xFF#8).toNat = 255 - b.toNat := by
  have hones : 0xFF#8 = BitVec.allOnes 8 := rfl
  rw [hones, BitVec.xor_allOnes, BitVec.toNat_not]

/-- Settles O5: the ranges of the first byte under `ONES`, and those of its complement under
`ZEROS`. -/
theorem firstByteTellsTheLength : Obligations.FirstByteTellsTheLength := by
  intro c t b
  change clo8 b + 1 = _ ∧ clo8 (b ^^^ 0xFF#8) + 1 = _
  refine ⟨clo8_eq b, ?_⟩
  have hcompl {a : Nat} (ha : a < 255) : 255 - b.toNat ≤ a ↔ 255 - a ≤ b.toNat := by omega
  rw [clo8_eq, xor_ones_toNat]
  simp [hcompl]

/-- Settles O6: the sums of R93. -/
theorem offsetsAsTabled : Obligations.OffsetsAsTabled := by
  unfold Obligations.OffsetsAsTabled
  decide

end Sys2Proof.Machine
end

section
/-! PROOFS. 44_fast_decoder.md R191 to R197: the loop of `FDEC` and the unrolled rows are one
function of the window, of which only the bytes of the encoding matter. -/

namespace Sys2Proof.Machine

/-! ## The unrolled payloads (44_fast_decoder.md R193) -/

theorem loopPayload_one (h : Byte) (win : Bytes 9) : loopPayload 1 h win = h.setWidth 64 := by
  simp [loopPayload]

/-- One more pass of the loop of R191. -/
theorem loopPayload_succ {l : Nat} (h1 : 1 ≤ l) (h9 : l < 9) (h : Byte) (win : Bytes 9) :
    loopPayload (l + 1) h win = loopPayload l h win <<< 8 ||| win[l].setWidth 64 := by
  obtain ⟨n, rfl⟩ := Nat.exists_eq_add_of_le' h1
  simp only [loopPayload, Nat.add_sub_cancel]
  rw [take_drop_one_eq_map_range win (by omega), take_drop_one_eq_map_range win (by omega),
    List.range_succ, List.map_append, List.foldl_append]
  simp [h9]

/-- A byte below a payload moves it up by eight bits. -/
theorem setWidth_append_byte {n : Nat} (x : BitVec n) (b : Byte) :
    (x ++ b).setWidth 64 = x.setWidth 64 <<< 8 ||| b.setWidth 64 := by
  refine BitVec.eq_of_getLsbD_eq fun i hi => ?_
  by_cases hlow : i < 8
  · simp [BitVec.getLsbD_append, hi, hlow]
  · have hbyte : b.getLsbD i = false := BitVec.getLsbD_of_ge b i (Nat.not_lt.1 hlow)
    simp [BitVec.getLsbD_append, hi, hlow, hbyte]

theorem setWidth_extractLsb'_eq_masked (b : Byte) {n : Nat} (h : n ≤ 8) :
    (b.extractLsb' 0 n).setWidth 64 = (b &&& payloadMask (8 - n)).setWidth 64 := by
  refine BitVec.eq_of_toNat_eq ?_
  rw [BitVec.toNat_setWidth, BitVec.toNat_setWidth, and_payloadMask_toNat, BitVec.extractLsb'_toNat,
    Nat.shiftRight_zero, Nat.sub_sub_self h]

/-! ## What `FDEC` does with a window -/

/-- `FDEC` takes the window `win` and writes what `fdec` says (44_fast_decoder.md R200). -/
def runFdec (win : Bytes 9) (s : State) : State :=
  { s with
    fdec :=
      { fwin := win
        fout := (fdec s.profile win).1
        fdlen := (fdec s.profile win).2
        gValid := true } }

theorem exec_fdec_eq_runFdec (s : State) : exec .fdec s = .next (runFdec s.env.winPort s) := rfl

theorem finishFdec_eq_runFdec {win : Bytes 9} {l : Nat} {q : BitVec 64} {s : State}
    (hl : tierLength s.profile win[0] = l)
    (hq : q = loopPayload l (win[0] &&& payloadMask l) win) :
    finishFdec win l q s = runFdec win s := by
  subst hl hq
  rfl

theorem tierLength_openWindow {l : Nat} (h1 : 1 ≤ l) (h9 : l ≤ 9) (h : Byte) (s : State) :
    tierLength s.profile (openWindow l h s)[0] = l := by
  rw [openWindow, Vector.getElem_set_self, tierLength_firstByte s.profile h1 h9]

/-- Tiers 8 and 9 have no payload bit in the first byte. -/
theorem payloadMask_of_ge {l : Nat} (h8 : 8 ≤ l) : payloadMask l = 0 :=
  BitVec.eq_of_getLsbD_eq fun j _ => by
    simp [getLsbD_payloadMask, Nat.sub_eq_zero_of_le h8]

theorem openWindow_of_ge {l : Nat} (h8 : 8 ≤ l) (h : Byte) (s : State) :
    openWindow l 0#8 s = openWindow l h s := by
  simp [openWindow, firstByte, payloadMask_of_ge h8]

/-- The unrolled form of each row agrees with the loop (44_fast_decoder.md R193, R191). -/
theorem exec_tierRow {l : Nat} (h1 : 1 ≤ l) (h9 : l ≤ 9) (h : Byte) (s : State) :
    exec (tierRow l h) s = .next (runFdec (openWindow l h s) s) := by
  have htier := tierLength_openWindow h1 h9 h s
  rw [← finishFdec_eq_runFdec htier rfl]
  have hopen (h8 : 8 ≤ l) := openWindow_of_ge h8 h s
  interval_cases l <;>
    simp [tierRow, exec, execFvlqTier1, execFvlqTier2, execFvlqTier3, execFvlqTier4,
      execFvlqTier5, execFvlqTier6, execFvlqTier7, execFvlqTier8, execFvlqTier9,
      setWidth_append_byte, setWidth_extractLsb'_eq_masked, loopPayload_succ, loopPayload_one,
      hopen, payloadMask_of_ge, -BitVec.setWidth_eq]

/-- Whatever `FDEC`'s instruction, it decodes some window: the port's, or that opened by the row. -/
theorem exec_fdecUnit {i : Instr} (hi : unitOf i = .fdec) (s : State) :
    ∃ win, exec i s = .next (runFdec win s) := by
  have hrow {l : Nat} (h1 : 1 ≤ l) (h9 : l ≤ 9) (h : Byte) := exec_tierRow h1 h9 h s
  cases i with
  | fdec => exact ⟨_, exec_fdec_eq_runFdec s⟩
  | fvlqTier1 h => exact ⟨_, hrow (l := 1) (by decide) (by decide) h⟩
  | fvlqTier2 h => exact ⟨_, hrow (l := 2) (by decide) (by decide) h⟩
  | fvlqTier3 h => exact ⟨_, hrow (l := 3) (by decide) (by decide) h⟩
  | fvlqTier4 h => exact ⟨_, hrow (l := 4) (by decide) (by decide) h⟩
  | fvlqTier5 h => exact ⟨_, hrow (l := 5) (by decide) (by decide) h⟩
  | fvlqTier6 h => exact ⟨_, hrow (l := 6) (by decide) (by decide) h⟩
  | fvlqTier7 h => exact ⟨_, hrow (l := 7) (by decide) (by decide) h⟩
  | fvlqTier8 => exact ⟨_, hrow (l := 8) (by decide) (by decide) 0⟩
  | fvlqTier9 => exact ⟨_, hrow (l := 9) (by decide) (by decide) 0⟩
  | senc8 | senc16 | senc32 | senc64 | senc128 | sdec8 | sdec16 | sdec32 | sdec64 | sdec128 | fenc
  | svlqByteMore g | svlqByteLast g => nomatch hi

/-- A row on the window its own byte opens is `FDEC` on that window. -/
theorem exec_decodeWindow (s : State) :
    exec (decodeWindow s.profile s.env.winPort[0]) s = exec .fdec s := by
  obtain ⟨h1, h9⟩ := tierLength_bounds s.profile s.env.winPort[0]
  rw [decodeWindow_eq_tierRow, exec_tierRow h1 h9, openWindow, firstByte_tierLength,
    Vector.set_getElem_self, exec_fdec_eq_runFdec]

/-- Settles O35: the loop and the unrolled form agree. -/
theorem fdecDoesWhatItsTierRowDoes : Obligations.FdecDoesWhatItsTierRowDoes := by
  intro s i h
  cases h
  exact (exec_decodeWindow s).symm

/-! ## The value (44_fast_decoder.md R191, R195) -/

theorem fdec_length_toNat (p : Profile) (win : Bytes 9) :
    (fdec p win).2.toNat = tierLength p win[0] := by
  have h9 := (tierLength_bounds p win[0]).2
  rw [fdec, BitVec.toNat_ofNat]
  exact Nat.mod_eq_of_lt (by omega)

theorem fdec_value_toNat (p : Profile) (win : Bytes 9) :
    (fdec p win).1.toNat =
      (payloadNat (tierLength p win[0]) win +
        if p.tier = .offset then off (tierLength p win[0]) else 0) % 2 ^ 64 := by
  rw [fdec, valueOf_toNat, loopPayload_toNat win (tierLength_bounds p win[0]).2, Nat.mod_add_mod]

/-- Settles O34: a row is `FDEC` on the window opened by its byte. -/
theorem tierRowResults : Obligations.TierRowResults := by
  intro h i l s hi hwf
  obtain ⟨rfl, h1, h9⟩ := eq_tierRow_of_mem hi
  have htier := tierLength_openWindow h1 h9 h s
  refine ⟨_, exec_tierRow h1 h9 h s, ?_, ?_, rfl, ?_⟩
  · rw [encode_tierRow s.profile h1 h9]
    rfl
  · exact (fdec_length_toNat _ _).trans htier
  · have hvalue := fdec_value_toNat s.profile (openWindow l h s)
    rwa [htier] at hvalue

/-- The bytes from index 1 on, as base-256 digits below the digits `q` (20_memory.md R58). -/
theorem foldl_digits_lt (digit : Nat → Byte) (ks : List Nat) {q bound : Nat} (h : q < bound) :
    ks.foldl (fun q k => q * 256 + (digit k).toNat) q < bound * 256 ^ ks.length := by
  induction ks generalizing q bound with
  | nil => simpa using h
  | cons k ks ih =>
    have hdigit := (digit k).isLt
    rw [List.foldl_cons, List.length_cons, Nat.pow_succ', ← Nat.mul_assoc]
    exact ih (by omega)

theorem payloadNat_nine_lt (win : Bytes 9) : payloadNat 9 win < 2 ^ 64 :=
  foldl_digits_lt (fun k => (win.toList[k + 1]?).getD 0) (List.range 8)
    (Nat.mod_lt _ (Nat.two_pow_pos _))

/-- Settles O37: payload and offset together pass `2^64` once. -/
theorem wastedWindowsWrap : Obligations.WastedWindowsWrap := by
  intro s t hoffset hnine hwasted h
  have hlt := payloadNat_nine_lt s.env.winPort
  have hvalue := fdec_value_toNat s.profile s.env.winPort
  have hlength : t.fdec.fdlen = 9 := by rw [fdec_regs_of_exec h, fdec, hnine]; rfl
  rw [hnine, if_pos hoffset, show off 9 = 0x0102040810204080 from rfl] at hvalue
  rw [show t.fdec.fout = (fdec s.profile s.env.winPort).1 by rw [fdec_regs_of_exec h]]
  exact ⟨by omega, by omega, hlength⟩

/-! ## The bytes that matter (44_fast_decoder.md R194, R197) -/

theorem take_eq_of_agree {win win' : Bytes 9} {l : Nat}
    (h : ∀ k : Fin 9, k.val < l → win[k] = win'[k]) : win.toList.take l = win'.toList.take l := by
  refine List.ext_getElem (by simp) fun k hk _ => ?_
  rw [List.length_take, Vector.length_toList] at hk
  simpa using h ⟨k, by omega⟩ (by simpa using hk.trans_le (Nat.min_le_left _ _))

/-- `FDEC` reads the bytes of the encoding and no other. -/
theorem fdec_eq_of_take_eq {p : Profile} {win win' : Bytes 9}
    (h : win.toList.take (tierLength p win[0]) = win'.toList.take (tierLength p win[0])) :
    fdec p win' = fdec p win := by
  have h1 := (tierLength_bounds p win[0]).1
  have hfirst : win[0] = win'[0] := by
    have h0 := congrArg (·[0]?) h
    simpa [List.getElem?_take, show 0 < tierLength p win[0] from h1] using h0
  simp only [fdec, loopPayload, ← hfirst, ← List.drop_take, h]

/-- Settles O36: the two windows agree on all the bytes that `FDEC` reads. -/
theorem fdecIgnoresTheTail : Obligations.FdecIgnoresTheTail := by
  intro s s' t t' hp h h' hagree
  rw [fdec_regs_of_exec h, fdec_regs_of_exec h', ← hp]
  rw [fdec_regs_of_exec h, fdec_length_toNat] at hagree
  have heq := fdec_eq_of_take_eq (take_eq_of_agree hagree)
  exact ⟨congrArg Prod.fst heq, congrArg Prod.snd heq⟩

/-- Settles O40: the window agrees with `FBUF` on all the bytes that `FDEC` reads from it. -/
theorem fastRoundTripWithAnyFiller : Obligations.FastRoundTripWithAnyFiller := by
  intro s t s' h hp hagree
  have htrip := fdec_fenc s.profile (s.env.opPort.setWidth 64)
  have hregs := fenc_regs_of_exec h
  generalize s.env.opPort.setWidth 64 = v at htrip hregs
  have hlength : tierLength s.profile (fenc s.profile v).1[0] = (fenc s.profile v).2.toNat := by
    rw [← fdec_length_toNat, htrip]
  rw [hregs, ← hlength] at hagree
  have hsame := fdec_eq_of_take_eq (take_eq_of_agree fun k hk => (hagree k hk).symm)
  refine ⟨_, exec_fdec_eq_runFdec s', ?_, ?_⟩
  · rw [hregs, runFdec, hp, hsame, htrip]
  · rw [hregs, runFdec, hp, hsame, htrip]

/-! ## The frame of the fast units (10_state.md R26, R27) -/

/-- Settles O38: `FENC` is `runFenc`, and the others are `runFdec`. -/
theorem fastUnitsFrame : Obligations.FastUnitsFrame := by
  refine ⟨fun s t h => ?fenc, fun s t h => ?fdec, fun h i l s t hi ht => ?row⟩
  case fenc =>
    cases h
    rfl
  case fdec =>
    cases h
    rfl
  case row =>
    obtain ⟨rfl, h1, h9⟩ := eq_tierRow_of_mem hi
    rw [exec_tierRow h1 h9] at ht
    cases ht
    rfl

end Sys2Proof.Machine
end

section
/-! PROOFS. 42_std_decoder.md R143: what a source byte does; and 10_state.md R21, R22, R26, R27 and
R40: what every step of the machine keeps. -/

namespace Sys2Proof.Machine

/-! ## The byte step (42_std_decoder.md R143) -/

theorem group_pos {g : BitVec 7} (h : g ≠ 0) : 0 < g.toNat :=
  Nat.pos_of_ne_zero fun hzero => h (BitVec.eq_of_toNat_eq hzero)

/-- The groups up to group `gi` fit below group `gi + 1`. -/
theorem acc_add_group_lt_next {acc gi : Nat} (g : BitVec 7) (h : acc < 2 ^ (7 * gi)) :
    acc + g.toNat * 2 ^ (7 * gi) < 2 ^ (7 * (gi + 1)) := by
  have hgroup : g.toNat * 2 ^ (7 * gi) ≤ 127 * 2 ^ (7 * gi) :=
    Nat.mul_le_mul_right _ (Nat.le_of_lt_succ (group_lt g))
  rw [Nat.mul_add, Nat.pow_add]
  omega

/-- A group that fits lies above the groups read before and below bit `W`. -/
theorem acc_add_group_lt {w gi acc : Nat} {g : BitVec 7} (hfits : acc < 2 ^ w)
    (hbelow : acc < 2 ^ (7 * gi)) (hg : ¬ tooWide w gi g) :
    acc + g.toNat * 2 ^ (7 * gi) < 2 ^ w := by
  by_cases hzero : g = 0
  · simpa [hzero] using hfits
  · have hlt : g.toNat * 2 ^ (7 * gi) < 2 ^ w := Nat.lt_of_not_le fun hle => hg ⟨hzero, hle⟩
    have hpow : 2 ^ (7 * gi) < 2 ^ w := (Nat.le_mul_of_pos_left _ (group_pos hzero)).trans_lt hlt
    obtain ⟨d, rfl⟩ := Nat.exists_eq_add_of_lt ((Nat.pow_lt_pow_iff_right (by decide)).1 hpow)
    rw [Nat.add_assoc, Nat.pow_add, Nat.mul_comm (2 ^ (7 * gi))] at hlt ⊢
    have hgroup : g.toNat + 1 ≤ 2 ^ (d + 1) := Nat.lt_of_mul_lt_mul_right hlt
    calc acc + g.toNat * 2 ^ (7 * gi)
        < 2 ^ (7 * gi) + g.toNat * 2 ^ (7 * gi) := Nat.add_lt_add_right hbelow _
      _ = (g.toNat + 1) * 2 ^ (7 * gi) := by rw [Nat.add_mul, Nat.one_mul, Nat.add_comm]
      _ ≤ 2 ^ (d + 1) * 2 ^ (7 * gi) := Nat.mul_le_mul_right _ hgroup

/-- All the registers of `SDEC` after a terminal byte whose group fits. -/
theorem byteStep_last_eq (p : Profile) {g : BitVec 7} {d : SdecRegs}
    (hacc : d.acc.toNat < 2 ^ (7 * d.gi.toNat)) (hfits : ¬ tooWide d.dW.bits d.gi.toNat g) :
    ∃ acc, acc.toNat = d.acc.toNat + g.toNat * 2 ^ (7 * d.gi.toNat) ∧
      byteStep p (contLast p) g d =
        { d with dState := .done, acc := acc, dStatus := .ok, dEtok := ⟨0⟩ } := by
  rcases byteStep_cases p (contLast p) g d with ⟨hwide, -⟩ | ⟨-, acc, hsum, ⟨-, hd⟩ | ⟨hne, -⟩⟩
  · exact absurd hwide hfits
  · exact ⟨acc, hsum ▸ acc_add_group d g hacc hfits, hd⟩
  · exact absurd rfl hne

/-- All the registers of `SDEC` after any other byte whose group fits. -/
theorem byteStep_more_eq (p : Profile) {g : BitVec 7} {d : SdecRegs}
    (hacc : d.acc.toNat < 2 ^ (7 * d.gi.toNat)) (hfits : ¬ tooWide d.dW.bits d.gi.toNat g) :
    ∃ acc gi, acc.toNat = d.acc.toNat + g.toNat * 2 ^ (7 * d.gi.toNat) ∧
      gi.toNat = min (d.gi.toNat + 1) (lmax d.dW.bits) ∧
      byteStep p (contMore p) g d = { d with acc := acc, gi := gi } := by
  have hindex := (byteStep_more_of_fits (p := p) hacc hfits).2
  rcases byteStep_cases p (contMore p) g d with ⟨hwide, -⟩ | ⟨-, acc, hsum, ⟨hlast, -⟩ | ⟨-, hd⟩⟩
  · exact absurd hwide hfits
  · exact absurd hlast (contMore_ne_contLast p)
  · rw [hd] at hindex
    exact ⟨acc, _, hsum ▸ acc_add_group d g hacc hfits, hindex, hd⟩

theorem exec_byte_eq_deliverByte {i : Instr} {g : BitVec 7}
    (hi : i ∈ [.svlqByteMore g, .svlqByteLast g]) (s : State) :
    ∃ c, exec i s = deliverByte c g s := by
  simp only [List.mem_cons, List.not_mem_nil, or_false] at hi
  rcases hi with rfl | rfl
  · exact ⟨contMore s.profile, rfl⟩
  · exact ⟨contLast s.profile, rfl⟩

theorem deliverByte_of_read {c : BitVec 1} {g : BitVec 7} {s : State}
    (hread : s.sdec.dState = .read) :
    ∃ t, deliverByte c g s = .next t ∧ t.sdec = byteStep s.profile c g s.sdec := by
  rcases deliverByte_cases c g s with ⟨-, h⟩ | ⟨hbusy, -⟩
  · exact ⟨_, h, rfl⟩
  · exact absurd hread hbusy

/-- Settles O20: the byte step with each continuation bit, on a group that fits. -/
theorem sdecByteThatFits : Obligations.SdecByteThatFits := by
  intro s g hread hgood hfits
  have hacc := hgood.acc_below_group hread
  obtain ⟨accLast, hsumLast, hlast⟩ := byteStep_last_eq s.profile hacc hfits
  obtain ⟨accMore, gi, hsumMore, hgi, hmore⟩ := byteStep_more_eq s.profile hacc hfits
  obtain ⟨t, ht, hsdec⟩ := deliverByte_of_read (c := contLast s.profile) (g := g) hread
  obtain ⟨u, hu, hsdec'⟩ := deliverByte_of_read (c := contMore s.profile) (g := g) hread
  rw [hlast] at hsdec
  rw [hmore] at hsdec'
  refine ⟨⟨t, ht, ?_⟩, u, hu, ?_⟩
  · rw [hsdec]
    exact ⟨rfl, rfl, rfl, rfl, rfl, hsumLast⟩
  · rw [hsdec']
    exact ⟨hread, rfl, rfl, rfl, hgi, hsumMore⟩

/-- Settles O21: both byte rows are `deliverByte`, which has one branch for READ and one for the
other phases. -/
theorem sdecByteFrame : Obligations.SdecByteFrame := by
  intro i g s t hi h
  obtain ⟨c, hc⟩ := exec_byte_eq_deliverByte hi s
  rw [hc] at h
  rcases deliverByte_cases c g s with ⟨hread, hd⟩ | ⟨hbusy, hd⟩ <;> cases hd.symm.trans h
  · exact ⟨rfl, rfl, rfl, rfl, byteStep_dW _ _ _ _, fun _ => rfl, fun hbusy => absurd hread hbusy⟩
  · exact ⟨rfl, rfl, rfl, rfl, rfl, fun hread => absurd hread hbusy, fun _ => rfl⟩

/-- Settles O19: a row of `SDEC` is its `sdecCommand`, which has one branch outside IDLE. -/
theorem busySdecChangesNothing : Obligations.BusySdecChangesNothing := by
  intro i w s hi hbusy
  rw [exec_sdecRow hi]
  rcases sdecCommand_cases w s with ⟨hidle, -⟩ | ⟨-, h⟩
  · exact absurd hidle hbusy
  · exact h

/-- Settles O16: `SENC` writes its operand and buffer, and issues the write of those bytes. -/
theorem sencFrame : Obligations.SencFrame := by
  intro i w s t hi h
  rw [exec_sencRow hi] at h
  rcases sencCommand_cases w s with ⟨hidle, hc⟩ | ⟨hbusy, hc⟩ <;> cases hc.symm.trans h
  · refine ⟨rfl, rfl, rfl, rfl, rfl, rfl, fun _ => ?_, fun hbusy => absurd hidle hbusy⟩
    rw [issue_senc, outBytes_startSenc]
    rfl
  · exact ⟨rfl, rfl, rfl, rfl, rfl, rfl, fun hidle => absurd hidle hbusy, fun _ => rfl⟩

/-! ## `SENC` (10_state.md R21) -/

theorem startSenc_good {p : Profile} {r : SencRegs} (h : SencGood p r) (w : Width)
    (v : BitVec 128) : SencGood p (startSenc p w v r) where
  value_fits := by
    rw [startSenc_sVal, lowBits_toNat]
    exact Nat.mod_lt _ (Nat.two_pow_pos _)
  length_le := by
    rw [startSenc_olen_toNat]
    exact (sencBytes_length _ _).2
  tail_zero k hk := by
    rw [startSenc_olen_toNat] at hk
    exact (padBytes_get 19 _ k.val k.isLt).trans (List.getD_eq_default _ _ hk)
  never_overflow := h.never_overflow
  token_zero := h.token_zero
  holds_encoding _ := outBytes_startSenc p w v r

theorem sencAnswered_good {p : Profile} {r : SencRegs} (h : SencGood p r)
    (hwrite : r.sState = .write) (a : SinkAnswer) : SencGood p (sencAnswered r a) := by
  have hbytes : outBytes r = sencBytes p r.sVal := h.holds_encoding (by simp [hwrite])
  have hstatus := sencAnswered_sStatus_ne_overflow r a
  cases a with
  | ok => exact ⟨h.value_fits, h.length_le, h.tail_zero, hstatus, fun _ => rfl, fun _ => hbytes⟩
  | reject e =>
    exact ⟨h.value_fits, h.length_le, h.tail_zero, hstatus, (absurd rfl ·), fun _ => hbytes⟩

/-! ## `SDEC` (10_state.md R22) -/

theorem startSdec_good {d : SdecRegs} (h : SdecGood d) (w : Width) : SdecGood (startSdec w d) where
  acc_fits := Nat.two_pow_pos _
  acc_below_group _ := Nat.two_pow_pos _
  index_le := Nat.zero_le _
  token_zero := h.token_zero
  failed_zero hdone := nomatch hdone

theorem raiseSdec_good {d : SdecRegs} (h : SdecGood d) (x : Exc) : SdecGood (raiseSdec x d) where
  acc_fits := Nat.two_pow_pos _
  acc_below_group hread := nomatch hread
  index_le := h.index_le
  token_zero hne := by
    cases x with
    | overflow => rfl
    | io e => exact absurd rfl hne
  failed_zero _ _ := rfl

/-- The saturated index still bounds the groups read, since `ACC` fits the width. -/
theorem byteStep_good {d : SdecRegs} (h : SdecGood d) (hread : d.dState = .read) (p : Profile)
    (c : BitVec 1) (g : BitVec 7) : SdecGood (byteStep p c g d) := by
  by_cases hwide : tooWide d.dW.bits d.gi.toNat g
  · rw [byteStep_of_tooWide hwide]
    exact raiseSdec_good h _
  have hacc := h.acc_below_group hread
  have hsum := acc_add_group_lt h.acc_fits hacc hwide
  by_cases hc : c = contLast p
  · obtain ⟨acc, hval, hd⟩ := byteStep_last_eq p hacc hwide
    rw [hc, hd]
    exact ⟨hval ▸ hsum, (nomatch ·), h.index_le, fun _ => rfl, fun _ hne => absurd rfl hne⟩
  · obtain ⟨acc, gi, hval, hgi, hd⟩ := byteStep_more_eq p hacc hwide
    rw [eq_contMore_of_ne_contLast hc, hd]
    refine ⟨hval ▸ hsum, fun _ => ?_, hgi ▸ Nat.min_le_right _ _, h.token_zero,
      fun hdone => nomatch hread.symm.trans hdone⟩
    change acc.toNat < 2 ^ (7 * gi.toNat)
    rw [hval, hgi]
    rcases Nat.le_total (d.gi.toNat + 1) (lmax d.dW.bits) with hle | hle
    · rw [Nat.min_eq_left hle]
      exact acc_add_group_lt_next g hacc
    · rw [Nat.min_eq_right hle]
      exact hsum.trans_le (Nat.pow_le_pow_right (by decide) (lmax_bounds d.dW).2.2)

/-! ## The fast units (10_state.md R26, R27) -/

theorem runFenc_good (v : BitVec 64) (s : State) : FencGood s.profile (runFenc v s).fenc := by
  obtain ⟨h1, h9⟩ := tierOf_bounds s.profile v
  have hlength : (runFenc v s).fenc.flen.toNat = tierOf s.profile v := fenc_flen_toNat s.profile v
  refine ⟨by rwa [hlength], fun k hk => ?_, fun _ => ⟨by rwa [hlength], rfl⟩⟩
  refine (padBytes_get 9 _ k.val k.isLt).trans (List.getD_eq_default _ _ ?_)
  rwa [fencBytes_length s.profile _ _ h9, ← hlength]

theorem runFdec_good (win : Bytes 9) (s : State) : FdecGood s.profile (runFdec win s).fdec := by
  obtain ⟨h1, h9⟩ := tierLength_bounds s.profile win[0]
  have hlength : (runFdec win s).fdec.fdlen.toNat = tierLength s.profile win[0] :=
    fdec_length_toNat s.profile win
  exact ⟨by rwa [hlength], fun _ => ⟨by rwa [hlength], rfl⟩⟩

/-! ## Every step -/

theorem exec_keepsInv {i : Instr} {s t : State} (h : exec i s = .next t) (hs : Inv s) : Inv t := by
  obtain ⟨hsenc, hsdec, hfenc, hfdec⟩ := hs
  rcases exec_cases i s with ⟨w, -, hi⟩ | ⟨w, -, hi⟩ | ⟨c, g, -, hi⟩ | ⟨-, hi⟩ | ⟨hunit, -⟩
  · rcases sencCommand_cases w s with ⟨-, hc⟩ | ⟨-, hc⟩ <;> cases (hi.trans hc).symm.trans h
    · exact ⟨startSenc_good hsenc w _, hsdec, hfenc, hfdec⟩
    · exact ⟨hsenc, hsdec, hfenc, hfdec⟩
  · rcases sdecCommand_cases w s with ⟨-, hc⟩ | ⟨-, hc⟩ <;> cases (hi.trans hc).symm.trans h
    · exact ⟨hsenc, startSdec_good hsdec w, hfenc, hfdec⟩
    · exact ⟨hsenc, hsdec, hfenc, hfdec⟩
  · rcases deliverByte_cases c g s with ⟨hread, hd⟩ | ⟨-, hd⟩ <;> cases (hi.trans hd).symm.trans h
    · exact ⟨hsenc, byteStep_good hsdec hread _ c g, hfenc, hfdec⟩
    · exact ⟨hsenc, hsdec, hfenc, hfdec⟩
  · cases hi.symm.trans h
    exact ⟨hsenc, hsdec, runFenc_good _ s, hfdec⟩
  · obtain ⟨win, hrun⟩ := exec_fdecUnit hunit s
    cases hrun.symm.trans h
    exact ⟨hsenc, hsdec, hfenc, runFdec_good win s⟩

theorem takeResult_keepsInv (u : UnitId) {s : State} (hs : Inv s) : Inv (takeResult u s) := by
  rcases takeResult_cases u s with ⟨-, h⟩ | ⟨r, -, h⟩ <;> rw [h]
  · exact hs
  obtain ⟨hsenc, hsdec, hfenc, hfdec⟩ := hs
  cases u with
  | senc =>
    obtain ⟨hval, hlen, htail, hstatus, htoken, -⟩ := hsenc
    exact ⟨⟨hval, hlen, htail, hstatus, htoken, (absurd rfl ·)⟩, hsdec, hfenc, hfdec⟩
  | sdec =>
    obtain ⟨hacc, -, hindex, htoken, -⟩ := hsdec
    exact ⟨hsenc, ⟨hacc, (nomatch ·), hindex, htoken, (nomatch ·)⟩, hfenc, hfdec⟩
  | fenc =>
    obtain ⟨hlen, htail, -⟩ := hfenc
    exact ⟨hsenc, hsdec, ⟨hlen, htail, (nomatch ·)⟩, hfdec⟩
  | fdec =>
    obtain ⟨hlen, -⟩ := hfdec
    exact ⟨hsenc, hsdec, hfenc, ⟨hlen, (nomatch ·)⟩⟩

/-- Settles O44. `Inv` speaks of the straps and the units' registers only, so it holds of the state
an event sees when it holds of the state before. -/
theorem stepKeepsTheInvariant : Obligations.StepKeepsTheInvariant := by
  intro s t hs h
  obtain ⟨hsenc, hsdec, hfenc, hfdec⟩ := hs
  have seen (env : Env) : Inv { s with env := env } := ⟨hsenc, hsdec, hfenc, hfdec⟩
  rcases step_cases h with ⟨-, rfl⟩ | ⟨a, rest, -, hcase⟩
  · exact seen _
  rcases hcase with rfl | ⟨u, c, others, i, -, -, -, -, hexec⟩ | ⟨b, answers, -, -, -, hexec⟩ |
    ⟨e, answers, -, -, -, rfl⟩ | ⟨w, answers, -, hwrite, -, rfl⟩ | ⟨u, -, rfl⟩ | ⟨win, -, hexec⟩
  · exact seen _
  · exact exec_keepsInv hexec (seen _)
  · exact exec_keepsInv hexec (seen _)
  · exact ⟨hsenc, raiseSdec_good hsdec _, hfenc, hfdec⟩
  · have hgood := sencAnswered_good hsenc hwrite w
    cases w <;> exact ⟨hgood, hsdec, hfenc, hfdec⟩
  · exact takeResult_keepsInv u (seen _)
  · exact exec_keepsInv hexec (seen _)

/-- Settles O42: the table of R241 is what `State.reset` holds. -/
theorem resetRegisters : Obligations.ResetRegisters := ⟨rfl, rfl, rfl, rfl, rfl⟩

/-- Settles O43: at reset no unit is in progress, and no result is offered. -/
theorem resetMeetsTheInvariant : Obligations.ResetMeetsTheInvariant where
  senc := ⟨by decide, by decide, by decide, by decide, fun _ => rfl, (absurd rfl ·)⟩
  sdec := ⟨by decide, (nomatch ·), by decide, fun _ => rfl, (nomatch ·)⟩
  fenc := ⟨by decide, by decide, (nomatch ·)⟩
  fdec := ⟨by decide, (nomatch ·)⟩

/-! ## The straps (10_state.md R40) -/

theorem profile_of_exec {i : Instr} {s t : State} (h : exec i s = .next t) :
    t.profile = s.profile := by
  rcases exec_cases i s with ⟨w, -, hi⟩ | ⟨w, -, hi⟩ | ⟨c, g, -, hi⟩ | ⟨-, hi⟩ |
    ⟨-, win, l, q, -, -, hi⟩ <;> rw [hi] at h
  · rcases sencCommand_cases w s with ⟨-, hc⟩ | ⟨-, hc⟩ <;> cases hc.symm.trans h <;> rfl
  · rcases sdecCommand_cases w s with ⟨-, hc⟩ | ⟨-, hc⟩ <;> cases hc.symm.trans h <;> rfl
  · rcases deliverByte_cases c g s with ⟨-, hd⟩ | ⟨-, hd⟩ <;> cases hd.symm.trans h <;> rfl
  · cases h
    rfl
  · cases h
    rfl

theorem takeResult_profile (u : UnitId) (s : State) : (takeResult u s).profile = s.profile := by
  rcases takeResult_cases u s with ⟨-, h⟩ | ⟨r, -, h⟩ <;> rw [h]
  cases u <;> rfl

theorem profile_of_step {s t : State} (h : step s = .next t) : t.profile = s.profile := by
  rcases step_cases h with ⟨-, rfl⟩ | ⟨a, rest, -, hcase⟩
  · rfl
  rcases hcase with rfl | ⟨u, c, others, i, -, -, -, -, hexec⟩ | ⟨b, answers, -, -, -, hexec⟩ |
    ⟨e, answers, -, -, -, rfl⟩ | ⟨w, answers, -, -, -, rfl⟩ | ⟨u, -, rfl⟩ | ⟨win, -, hexec⟩
  · rfl
  · simpa using profile_of_exec hexec
  · simpa using profile_of_exec hexec
  · rfl
  · cases w <;> rfl
  · exact takeResult_profile u _
  · simpa using profile_of_exec hexec

/-- Settles O45: no step writes the straps. -/
theorem strapsAreConstant : Obligations.StrapsAreConstant :=
  fun n s _ h => run_keeps (P := fun t => t.profile = s.profile)
    (fun _ _ hs hstep => (profile_of_step hstep).trans hs) n rfl h

end Sys2Proof.Machine
end

section
/-! PROOFS. 10_state.md R28 to R30, 30_encoding.md R102 and R104: what the next event does, when a
step stops, how the host takes a result, and the signed pseudo-operations. -/

namespace Sys2Proof.Machine

/-! ## A unit looks at its command port -/

theorem step_eq_runAction {s : State} {a : Action} {rest : List Action}
    (h : s.env.sched = a :: rest) : step s = runAction a (popEvent rest s) := by
  simp only [step, nextEvent, h]

@[simp] theorem acceptsCommand_popEvent (u : UnitId) (rest : List Action) (s : State) :
    acceptsCommand u (popEvent rest s) = acceptsCommand u s := by
  cases u <;> rfl

theorem acceptEvent_of_none {u : UnitId} {s : State} (h : firstOffer u s.env.offers = none) :
    acceptEvent u s = .next s := by
  simp only [acceptEvent, h]

theorem acceptEvent_of_reserved {u : UnitId} {s : State} {c : Command} {others : List Command}
    (h : firstOffer u s.env.offers = some (c, others)) (hc : decodeCommand c.word = none) :
    acceptEvent u s = .refused (.reservedCommand c.word) := by
  simp only [acceptEvent, h, hc]

theorem acceptEvent_of_command {u : UnitId} {s : State} {c : Command} {others : List Command}
    {i : Instr} (h : firstOffer u s.env.offers = some (c, others))
    (hc : decodeCommand c.word = some i) :
    acceptEvent u s =
      if acceptsCommand u s then exec i (drivePorts c others s) else .next s := by
  simp only [acceptEvent, h, hc]

/-- Settles O7: the unit takes the offer it accepts. -/
theorem stepRunsTheDecodedCommand : Obligations.StepRunsTheDecodedCommand := by
  intro s u rest c others i hsched hoffer hword haccepts
  rw [step_eq_runAction hsched, runAction,
    acceptEvent_of_command (s := popEvent rest s) hoffer hword,
    acceptsCommand_popEvent, if_pos haccepts]
  rfl

/-- Settles O8: in READ the source's byte is decoded at its port. -/
theorem stepRunsTheDecodedSourceByte : Obligations.StepRunsTheDecodedSourceByte := by
  intro s rest b answers i hsched hread hans hbyte
  cases hbyte
  simp only [step_source hsched, sourceEvent, popEvent_sdec, hread, if_true,
    popEvent_env_srcAnswers, hans]
  rfl

/-- Settles O9: the window's first byte is decoded at its port. -/
theorem stepRunsTheDecodedWindow : Obligations.StepRunsTheDecodedWindow := by
  intro s rest win i hsched hbyte
  cases hbyte
  rw [step_eq_runAction hsched]
  rfl

/-- Settles O10: `SENC` and `SDEC` accept in IDLE only. -/
theorem busyUnitLeavesTheOffer : Obligations.BusyUnitLeavesTheOffer := by
  intro s u rest c others i hsched hoffer hword hbusy
  have hrefuses : ¬ acceptsCommand u s = true := by
    rcases hbusy with ⟨rfl, hphase⟩ | ⟨rfl, hphase⟩ <;> simpa [acceptsCommand] using hphase
  rw [step_eq_runAction hsched, runAction,
    acceptEvent_of_command (s := popEvent rest s) hoffer hword,
    acceptsCommand_popEvent, if_neg hrefuses]
  rfl

/-- Settles O11: the look at the port finds no operation. -/
theorem reservedCommandIsRefused : Obligations.ReservedCommandIsRefused := by
  intro s u rest c others hsched hoffer hword
  rw [step_eq_runAction hsched, runAction,
    acceptEvent_of_reserved (s := popEvent rest s) hoffer hword]

/-! ## When a step stops (30_encoding.md R102) -/

theorem sourceEvent_next (s : State) : ∃ t, sourceEvent s = .next t := by
  unfold sourceEvent
  split
  · split
    · exact ⟨_, rfl⟩
    · exact exec_next _ _
    · exact ⟨_, rfl⟩
  · exact ⟨_, rfl⟩

theorem sinkEvent_next (s : State) : ∃ t, sinkEvent s = .next t := by
  unfold sinkEvent
  split
  · split <;> exact ⟨_, rfl⟩
  · exact ⟨_, rfl⟩

theorem acceptEvent_next_or_reserved (u : UnitId) (s : State) :
    (∃ t, acceptEvent u s = .next t) ∨
      ∃ c ∈ s.env.offers, decodeCommand c.word = none ∧
        acceptEvent u s = .refused (.reservedCommand c.word) := by
  cases hoffer : firstOffer u s.env.offers with
  | none => exact .inl ⟨_, acceptEvent_of_none hoffer⟩
  | some offer =>
    obtain ⟨c, others⟩ := offer
    cases hword : decodeCommand c.word with
    | some i =>
      rw [acceptEvent_of_command hoffer hword]
      split
      · exact .inl (exec_next _ _)
      · exact .inl ⟨_, rfl⟩
    | none =>
      obtain ⟨-, before, after, hlist, -⟩ := firstOffer_some hoffer
      exact .inr ⟨c, by simp [hlist], hword, acceptEvent_of_reserved hoffer hword⟩

/-- A step takes a next state, or finds a reserved word among the offers. -/
theorem step_next_or_reserved (s : State) :
    (∃ t, step s = .next t) ∨
      ∃ c ∈ s.env.offers, decodeCommand c.word = none ∧
        step s = .refused (.reservedCommand c.word) := by
  cases hsched : s.env.sched with
  | nil => exact .inl ⟨s, by simp only [step, nextEvent, hsched]⟩
  | cons a rest =>
    rw [step_eq_runAction hsched]
    cases a with
    | accept u => exact acceptEvent_next_or_reserved u (popEvent rest s)
    | source => exact .inl (sourceEvent_next _)
    | sink => exact .inl (sinkEvent_next _)
    | take u => exact .inl ⟨_, rfl⟩
    | window win => exact .inl (exec_next _ _)

/-- Settles O12: the only other outcome of a step is the refusal of an offer. -/
theorem stepStopsOnlyOnReservedWords : Obligations.StepStopsOnlyOnReservedWords := by
  refine ⟨fun _ f => (nomatch f), fun s r h => ?refused, fun s hlegal => ?legal⟩
  case refused =>
    rcases step_next_or_reserved s with ⟨t, ht⟩ | ⟨c, hmem, hword, hc⟩
    · nomatch ht.symm.trans h
    · cases hc.symm.trans h
      exact ⟨c, hmem, hword, rfl⟩
  case legal =>
    rcases step_next_or_reserved s with hnext | ⟨c, hmem, hword, -⟩
    · exact hnext
    · exact absurd hword (hlegal c hmem)

/-! ## Results (10_state.md R26 to R29, 70_reset_and_hazards.md R256) -/

theorem offeredResult_senc_ne_none (s : State) :
    offeredResult .senc s ≠ none ↔ s.senc.sState = .done := by
  unfold offeredResult
  cases s.senc.sStatus <;> simp

theorem offeredResult_sdec_ne_none (s : State) :
    offeredResult .sdec s ≠ none ↔ s.sdec.dState = .done := by
  unfold offeredResult
  cases s.sdec.dStatus <;> simp

/-- `SDEC` offers a value only when the decode ended with `OK` (42_std_decoder.md R155). -/
theorem sdec_ok_of_offers_value {s : State} {w : Width} {v : BitVec 128}
    (h : offeredResult .sdec s = some (.sdecOk w v)) :
    s.sdec.dState = .done ∧ s.sdec.dStatus = .ok := by
  have hdone : s.sdec.dState = .done := (offeredResult_sdec_ne_none s).1 (by simp [h])
  refine ⟨hdone, ?_⟩
  cases hstatus : s.sdec.dStatus with
  | ok => rfl
  | overflow => simp [offeredResult, hdone, hstatus] at h
  | io => simp [offeredResult, hdone, hstatus] at h

/-- A unit whose result has been taken offers none. -/
theorem offeredResult_releaseUnit (u : UnitId) (s : State) (env : Env) :
    offeredResult u { releaseUnit u s with env := env } = none := by
  cases u <;> simp [offeredResult, releaseUnit]

@[simp] theorem offeredResult_popEvent (u : UnitId) (rest : List Action) (s : State) :
    offeredResult u (popEvent rest s) = offeredResult u s := by
  cases u <;> rfl

/-- Settles O41: what each unit offers by phase and status, and what a take leaves. -/
theorem hostTakesResults : Obligations.HostTakesResults := by
  refine ⟨fun s => ⟨offeredResult_senc_ne_none s, fun hdone hstatus => ?_, fun hdone hstatus => ?_,
    offeredResult_sdec_ne_none s, fun hdone hstatus => ⟨_, ?_, lowBits_toNat _ _⟩,
    fun hdone hstatus => ?_, fun hdone hstatus => ?_, rfl, rfl⟩, fun s u rest hsched => ?take⟩
  case take =>
    refine ⟨takeResult u (popEvent rest s), step_eq_runAction hsched, takeResult_profile u _,
      fun hnone => ?none, fun r hsome => ?some, fun _ _ => sdec_ok_of_offers_value⟩
    case none =>
      rcases takeResult_cases u (popEvent rest s) with ⟨-, h⟩ | ⟨r, hr, -⟩
      · exact h
      · exact nomatch hnone.symm.trans ((offeredResult_popEvent u rest s).symm.trans hr)
    case some =>
      rcases takeResult_cases u (popEvent rest s) with ⟨hr, -⟩ | ⟨r', hr, h⟩ <;>
        rw [offeredResult_popEvent] at hr <;> cases hr.symm.trans hsome
      rw [h]
      refine ⟨rfl, offeredResult_releaseUnit _ _ _, ?_⟩
      cases u <;> exact ⟨rfl, rfl, rfl, rfl⟩
  all_goals simp [offeredResult, outBytes, hdone, hstatus]

/-! ## Signed pseudo-operations (30_encoding.md R104) -/

theorem signedPattern_toNat (w : Width) (x : Int) :
    ((signedPattern w x).toNat : Int) = x % (2 : Int) ^ w.bits := by
  have hpos : (0 : Int) < 2 ^ w.bits := by positivity
  have hwidth : 2 ^ w.bits ≤ 2 ^ 128 := Nat.pow_le_pow_right (by decide) (width_bits_bounds w).2
  rw [signedPattern, BitVec.toNat_setWidth,
    Nat.mod_eq_of_lt ((BitVec.ofInt w.bits x).isLt.trans_le hwidth), BitVec.toNat_ofInt]
  push_cast
  exact Int.toNat_of_nonneg (Int.emod_nonneg x hpos.ne')

/-- The pattern of a number of the signed range is the number, or the number and `2^W`. -/
theorem readSigned_signedPattern {w : Width} {x : Int} (hmin : -(2 : Int) ^ (w.bits - 1) ≤ x)
    (hmax : x < (2 : Int) ^ (w.bits - 1)) : readSigned w (signedPattern w x) = x := by
  have hpattern := signedPattern_toNat w x
  unfold readSigned
  generalize (signedPattern w x).toNat = r at hpattern ⊢
  split <;> cases w <;> simp only [Width.bits] at * <;> omega

/-- Settles O48: the pattern is the number modulo `2^W`, and reading it undoes that. -/
theorem signedPseudoOperations : Obligations.SignedPseudoOperations :=
  fun w x hmin hmax =>
    ⟨commandFor_decodes _ _ (encode_sencOf w), signedPattern_toNat w x,
      commandFor_decodes _ _ (encode_sdecOf w), readSigned_signedPattern hmin hmax⟩

end Sys2Proof.Machine
end

section
/-! PROOFS. 41_std_encoder.md R121 and R122, 30_encoding.md R82 to R84: the bytes `SENC` writes, in
closed form. -/

namespace Sys2Proof.Machine

/-! ## The rows of an encoding -/

/-- Group `k` of a value, least significant first (30_encoding.md R80). -/
def groupAt (n : BitVec 128) (k : Nat) : BitVec 7 := (n >>> (7 * k)).extractLsb' 0 7

/-- The encoding whose last group is group `k`. -/
def encodedRows (p : Profile) (n : BitVec 128) (k : Nat) : List Byte :=
  (List.range k).map (fun j => wireByte (contMore p) (groupAt n j)) ++
    [wireByte (contLast p) (groupAt n k)]

/-- `len` is the least number of groups, one at least, that hold `v` (30_encoding.md R83). -/
structure FewestGroups (v len : Nat) : Prop where
  pos : 1 ≤ len
  holds : v < 2 ^ (7 * len)
  minimal : 2 ≤ len → 2 ^ (7 * (len - 1)) ≤ v

theorem groupAt_toNat (n : BitVec 128) (k : Nat) :
    (groupAt n k).toNat = n.toNat / 2 ^ (7 * k) % 128 := by
  rw [groupAt, group_toNat, BitVec.toNat_ushiftRight, Nat.shiftRight_eq_div_pow]

theorem groupAt_zero (n : BitVec 128) : groupAt n 0 = n.extractLsb' 0 7 := by
  rw [groupAt, Nat.mul_zero, BitVec.ushiftRight_zero]

theorem groupAt_shiftGroup (n : BitVec 128) (k : Nat) :
    groupAt (n >>> 7) k = groupAt n (k + 1) := by
  rw [groupAt, groupAt, ← BitVec.shiftRight_add, Nat.mul_succ, Nat.add_comm]

theorem wireByte_toNat (c : BitVec 1) (g : BitVec 7) :
    (wireByte c g).toNat = 128 * c.toNat + g.toNat := by
  rw [wireByte, BitVec.toNat_append, ← Nat.shiftLeft_add_eq_or_of_lt g.isLt, Nat.shiftLeft_eq,
    Nat.mul_comm]

theorem encodedRows_length (p : Profile) (n : BitVec 128) (k : Nat) :
    (encodedRows p n k).length = k + 1 := by
  simp [encodedRows]

/-- A value of one group more has its low group in front. -/
theorem encodedRows_succ (p : Profile) (n : BitVec 128) (k : Nat) :
    encodedRows p n (k + 1) =
      wireByte (contMore p) (n.extractLsb' 0 7) :: encodedRows p (n >>> 7) k := by
  rw [← groupAt_zero]
  simp [encodedRows, List.range_succ_eq_map, groupAt_shiftGroup, Function.comp_def]

theorem encodedRows_getD (p : Profile) (n : BitVec 128) (k j : Nat) :
    ((encodedRows p n k).getD j 0).toNat =
      if j < k then 128 * (contMore p).toNat + n.toNat / 2 ^ (7 * j) % 128
      else if j = k then 128 * (contLast p).toNat + n.toNat / 2 ^ (7 * j) % 128
      else 0 := by
  rcases Nat.lt_trichotomy j k with hlt | rfl | hgt
  · have hmem : j < ((List.range k).map fun j => wireByte (contMore p) (groupAt n j)).length := by
      simpa using hlt
    rw [encodedRows, List.getD_append _ _ _ _ hmem]
    simp [hlt, wireByte_toNat, groupAt_toNat]
  · simp [encodedRows, wireByte_toNat, groupAt_toNat]
  · rw [if_neg (by omega), if_neg (by omega),
      List.getD_eq_default _ _ (by rw [encodedRows_length]; omega)]
    rfl

theorem FewestGroups.of_shiftGroup {v len : Nat} (h : FewestGroups (v / 128) len)
    (hv : 128 ≤ v) : FewestGroups v (len + 1) := by
  have hpow (m : Nat) : 2 ^ (7 * (m + 1)) = 2 ^ (7 * m) * 128 := by rw [Nat.mul_succ, Nat.pow_add]
  refine ⟨Nat.succ_pos len, ?_, fun _ => ?_⟩
  · rw [hpow]
    exact (Nat.div_lt_iff_lt_mul (by decide)).1 h.holds
  · rcases Nat.lt_or_ge len 2 with hone | htwo
    · obtain rfl : len = 1 := Nat.le_antisymm (Nat.le_of_lt_succ hone) h.pos
      exact hv
    · obtain ⟨m, rfl⟩ := Nat.exists_eq_add_of_le' h.pos
      rw [Nat.add_sub_cancel, hpow]
      exact (Nat.le_div_iff_mul_le (by decide)).1 (h.minimal htwo)

theorem encodeLoop_eq_encodedRows_of_lt (p : Profile) (fuel : Nat) {n : BitVec 128}
    (h : n.toNat < 128) :
    encodeLoop p (fuel + 1) n = encodedRows p n 0 ∧ FewestGroups n.toNat 1 := by
  refine ⟨?_, Nat.le_refl 1, h, fun htwo => absurd htwo (by decide)⟩
  rw [encodeLoop_of_lt p fuel h, ← groupAt_zero]
  rfl

/-- The loop of R121 writes the groups of the value, and no needless one. -/
theorem encodeLoop_eq_encodedRows (p : Profile) (fuel : Nat) {n : BitVec 128}
    (hn : n.toNat < 128 ^ (fuel + 1)) :
    ∃ k, encodeLoop p (fuel + 1) n = encodedRows p n k ∧ FewestGroups n.toNat (k + 1) := by
  induction fuel generalizing n with
  | zero => exact ⟨0, encodeLoop_eq_encodedRows_of_lt p 0 hn⟩
  | succ fuel ih =>
    rcases Nat.lt_or_ge n.toNat 128 with hlast | hmore
    · exact ⟨0, encodeLoop_eq_encodedRows_of_lt p (fuel + 1) hlast⟩
    · have hrest : (n >>> 7).toNat < 128 ^ (fuel + 1) := by
        rw [shiftGroup_toNat]
        exact Nat.div_lt_of_lt_mul (Nat.pow_succ' ▸ hn)
      obtain ⟨k, heq, hfew⟩ := ih hrest
      rw [shiftGroup_toNat] at hfew
      exact ⟨k + 1, by rw [encodeLoop_of_ge p _ hmore, heq, encodedRows_succ],
        hfew.of_shiftGroup hmore⟩

theorem sencBytes_eq_encodedRows (p : Profile) (n : BitVec 128) :
    ∃ k, sencBytes p n = encodedRows p n k ∧ FewestGroups n.toNat (k + 1) :=
  encodeLoop_eq_encodedRows p 18 (Nat.lt_trans n.isLt (by decide))

/-! ## The length (41_std_encoder.md R122) -/

/-- `max(1, ceil(bitlen(v) / 7))`. -/
theorem FewestGroups.eq_ceil {v len : Nat} (h : FewestGroups v len) :
    len = max 1 ((Nat.size v + 6) / 7) := by
  have hpos := h.pos
  have hle : Nat.size v ≤ 7 * len := Nat.size_le.2 h.holds
  have hlt (h2 : 2 ≤ len) : 7 * (len - 1) < Nat.size v := Nat.lt_size.2 (h.minimal h2)
  omega

theorem FewestGroups.le_lmax {v len w : Nat} (h : FewestGroups v len) (hw : 1 ≤ w)
    (hv : v < 2 ^ w) : len ≤ lmax w := by
  rw [lmax]
  rcases Nat.lt_or_ge len 2 with hone | htwo
  · omega
  · have hlt := (Nat.pow_lt_pow_iff_right (by decide : 1 < 2)).1 ((h.minimal htwo).trans_lt hv)
    omega

/-- A value with a bit at or beyond group `m - 1` takes `m` groups at least. -/
theorem FewestGroups.le_of_pow_le {v len m : Nat} (h : FewestGroups v len)
    (hv : 2 ^ (7 * (m - 1)) ≤ v) : m ≤ len := by
  have hlt := (Nat.pow_lt_pow_iff_right (by decide : 1 < 2)).1 (hv.trans_lt h.holds)
  omega

/-! ## The command -/

/-- What an accepted `SENC.<W>` holds: the rows of the operand. -/
theorem senc_of_exec {i : Instr} {w : Width} {s t : State} (hi : (i, w) ∈ sencRows)
    (hidle : s.senc.sState = .idle) (h : exec i s = .next t) :
    t.senc = startSenc s.profile w s.env.opPort s.senc ∧
      ∃ k, sencBytes s.profile t.senc.sVal = encodedRows s.profile t.senc.sVal k ∧
        t.senc.olen.toNat = k + 1 ∧ FewestGroups t.senc.sVal.toNat (k + 1) := by
  have hsenc : t.senc = startSenc s.profile w s.env.opPort s.senc := by
    rw [exec_senc_of_idle hi hidle h, issue_senc]
  obtain ⟨k, hrows, hfew⟩ := sencBytes_eq_encodedRows s.profile t.senc.sVal
  refine ⟨hsenc, k, hrows, ?_, hfew⟩
  rw [hsenc, startSenc_sVal] at hrows
  rw [hsenc, startSenc_olen_toNat, hrows, encodedRows_length]

theorem sVal_of_exec {i : Instr} {w : Width} {s t : State} (hi : (i, w) ∈ sencRows)
    (hidle : s.senc.sState = .idle) (h : exec i s = .next t) :
    t.senc.sVal.toNat = s.env.opPort.toNat % 2 ^ w.bits := by
  rw [(senc_of_exec hi hidle h).1, startSenc_sVal, lowBits_toNat]

/-- Settles O13: `OBUF` is the rows of the operand, filled up with zero bytes. -/
theorem sencEncodesAtAcceptance : Obligations.SencEncodesAtAcceptance := by
  intro i w s hi hidle
  obtain ⟨t, h⟩ := exec_next i s
  obtain ⟨hsenc, k, hrows, holen, hfew⟩ := senc_of_exec hi hidle h
  refine ⟨t, h, by rw [hsenc]; rfl, by rw [hsenc]; rfl, sVal_of_exec hi hidle h,
    holen.trans hfew.eq_ceil, fun j => ?_⟩
  have hobuf : t.senc.obuf[j] = (sencBytes s.profile t.senc.sVal).getD j.val 0 := by
    rw [hsenc]
    exact padBytes_get 19 _ j.val j.isLt
  rw [hobuf, hrows, encodedRows_getD, holen]
  simp only [Nat.add_lt_add_iff_right, Nat.add_right_cancel_iff]

/-- Settles O14: the length is the fewest groups that hold the operand. -/
theorem sencLengthIsMinimalAndBounded : Obligations.SencLengthIsMinimalAndBounded := by
  intro i w s t hi hidle h
  have hval := sVal_of_exec hi hidle h
  obtain ⟨-, k, -, holen, hfew⟩ := senc_of_exec hi hidle h
  have hbits := width_bits_bounds w
  have hfits : t.senc.sVal.toNat < 2 ^ w.bits := hval ▸ Nat.mod_lt _ (Nat.two_pow_pos _)
  have hbound := hfew.le_lmax (by omega) hfits
  have hlarge (hv : 2 ^ (7 * (lmax w.bits - 1)) ≤ t.senc.sVal.toNat) : k + 1 = lmax w.bits :=
    Nat.le_antisymm hbound (hfew.le_of_pow_le hv)
  rw [holen]
  refine ⟨hfew.pos, hbound, hfew.holds, hfew.minimal, ⟨fun heq => ?_, hlarge⟩, fun hbit => ?_⟩
  · rw [← heq]
    exact hfew.minimal (heq ▸ (lmax_bounds w).1)
  · have hset : t.senc.sVal.toNat.testBit (w.bits - 1) = true := by
      rw [hval, Nat.testBit_mod_two_pow, decide_eq_true (by omega), Bool.true_and]
      exact hbit
    have hindex : 7 * (lmax w.bits - 1) ≤ w.bits - 1 := by
      rw [lmax]
      omega
    exact hlarge ((Nat.pow_le_pow_right (by decide) hindex).trans (Nat.ge_two_pow_of_testBit hset))

/-- The last of two groups or more is not zero (30_encoding.md R83). -/
theorem FewestGroups.last_ne_zero {n : BitVec 128} {k : Nat} (h : FewestGroups n.toNat (k + 1))
    (hk : k ≠ 0) : groupAt n k ≠ 0 := by
  intro hzero
  have hnat := groupAt_toNat n k
  have hpos : 0 < n.toNat / 2 ^ (7 * k) :=
    Nat.div_pos (h.minimal (by omega)) (Nat.two_pow_pos _)
  have hlt : n.toNat / 2 ^ (7 * k) < 128 := by
    refine Nat.div_lt_of_lt_mul (h.holds.trans_eq ?_)
    rw [Nat.mul_succ, Nat.pow_add]
  rw [hzero, Nat.mod_eq_of_lt hlt] at hnat
  exact hpos.ne hnat

/-- Settles O15: all rows but the last carry `C_MORE`. -/
theorem sencWritesCanonicalRows : Obligations.SencWritesCanonicalRows := by
  intro i w s t hi hidle h
  obtain ⟨hsenc, k, hrows, -, hfew⟩ := senc_of_exec hi hidle h
  have hbytes : outBytes t.senc = sencBytes s.profile t.senc.sVal := by
    rw [hsenc, outBytes_startSenc, startSenc_sVal]
  refine ⟨_, _, groupAt t.senc.sVal k, hbytes.trans hrows, fun b hb => ?_,
    decodeSource_last _ _, fun hne => hfew.last_ne_zero ?_⟩
  · obtain ⟨j, -, rfl⟩ := List.mem_map.1 hb
    exact ⟨_, decodeSource_more _ _⟩
  · rintro rfl
    exact hne rfl

end Sys2Proof.Machine
end

section
/-! PROOFS. 42_std_decoder.md R149 and R159, 20_memory.md R61: runs of `SDEC` over the source's
answers. -/

namespace Sys2Proof.Machine

/-! ## Zero groups (42_std_decoder.md R149) -/

theorem not_tooWide_zero (w gi : Nat) : ¬ tooWide w gi 0 := fun h => h.1 rfl

@[simp] theorem placeGroup_zero (w : Width) (gi : Nat) : placeGroup w gi 0#7 = 0#128 := by
  simp [placeGroup]

/-- In any state of the registers a zero group adds nothing. -/
theorem byteStep_more_zero (p : Profile) (d : SdecRegs) :
    ∃ gi, byteStep p (contMore p) 0 d = { d with gi := gi } := by
  rcases byteStep_cases p (contMore p) 0 d with ⟨hwide, -⟩ | ⟨-, acc, hacc, ⟨hlast, -⟩ | ⟨-, hd⟩⟩
  · exact absurd hwide (not_tooWide_zero _ _)
  · exact absurd hlast (contMore_ne_contLast p)
  · have hsame : acc = d.acc := by simpa using hacc
    exact ⟨_, by rw [hd, hsame]⟩

theorem run_zeroGroups (n : Nat) {s : State}
    (hs : ReadingBytes (List.replicate n (wireByte (contMore s.profile) 0)) s) :
    ∃ t, Host.Core.run core n s = .next t ∧ t.sdec.dState = .read ∧ t.sdec.acc = s.sdec.acc ∧
      t.sdec.dW = s.sdec.dW ∧ t.env.consumed = s.env.consumed + n := by
  induction n generalizing s with
  | zero => exact ⟨s, rfl, hs.reading, rfl, rfl, rfl⟩
  | succ n ih =>
    rw [List.replicate_succ] at hs
    obtain ⟨t, hstep, hp, hsdec, hconsumed, hrest⟩ := hs.step
    obtain ⟨gi, hd⟩ := byteStep_more_zero s.profile s.sdec
    rw [hd] at hsdec
    have hread : t.sdec.dState = .read := by rw [hsdec]; exact hs.reading
    obtain ⟨u, hrun, hu, hacc, hw, hcount⟩ := ih (hp ▸ hrest hread)
    refine ⟨u, (run_succ n hstep).trans hrun, hu, ?_, ?_, ?_⟩
    · rw [hacc, hsdec]
    · rw [hw, hsdec]
    · rw [hcount, hconsumed, Nat.add_assoc, Nat.add_comm 1]

/-- Settles O26: a zero group leaves `ACC` alone at any index. -/
theorem zeroGroupsKeepTheDecoderReading : Obligations.ZeroGroupsKeepTheDecoderReading := by
  intro n s hread
  have hs := withAnswers_readingBytes (List.replicate n (wireByte (contMore s.profile) 0)) hread
  rw [List.map_replicate] at hs
  exact run_zeroGroups n hs

/-! ## The summary, one answer at a time (42_std_decoder.md R159) -/

section
variable {p : Profile} {w acc gi : Nat} {b : Byte} {rest : List SrcAnswer}

theorem summaryFrom_of_tooWide (h : tooWide w gi (groupBits b)) :
    summaryFrom p w (.byte b :: rest) acc gi = some (.overflow, gi + 1) :=
  if_pos h

theorem summaryFrom_of_last (hfits : ¬ tooWide w gi (groupBits b))
    (hlast : contBit b = contLast p) :
    summaryFrom p w (.byte b :: rest) acc gi =
      some (.ok (acc + (groupBits b).toNat * 2 ^ (7 * gi)), gi + 1) :=
  (if_neg hfits).trans (if_pos hlast)

theorem summaryFrom_of_more (hfits : ¬ tooWide w gi (groupBits b))
    (hmore : contBit b ≠ contLast p) :
    summaryFrom p w (.byte b :: rest) acc gi =
      summaryFrom p w rest (acc + (groupBits b).toNat * 2 ^ (7 * gi)) (gi + 1) :=
  (if_neg hfits).trans (if_neg hmore)

end

/-! ## The registers against the summary's variables

The index of the registers saturates at `LMAX(W)` (42_std_decoder.md R143), that of the summary does
not. -/

/-- The registers hold `acc`, and `gi` up to saturation. -/
structure Tracks (w : Width) (d : SdecRegs) (acc gi : Nat) : Prop where
  width : d.dW = w
  value : d.acc.toNat = acc
  index : d.gi.toNat = min gi (lmax w.bits)
  fits : acc < 2 ^ w.bits
  below : acc < 2 ^ (7 * gi)

theorem startSdec_tracks (w : Width) (d : SdecRegs) : Tracks w (startSdec w d) 0 0 :=
  ⟨rfl, rfl, (Nat.zero_min _).symm, Nat.two_pow_pos _, Nat.two_pow_pos _⟩

/-- From the saturated index on every group but zero is too wide. -/
theorem tooWide_of_lmax_le {w : Width} {gi : Nat} {g : BitVec 7} (h : lmax w.bits ≤ gi)
    (hg : g ≠ 0) : tooWide w.bits gi g := by
  have hbits := (lmax_bounds w).2.2
  exact ⟨hg, (Nat.pow_le_pow_right (by decide) (by omega)).trans
    (Nat.le_mul_of_pos_left _ (group_pos hg))⟩

theorem tooWide_saturated {w : Width} {gi : Nat} {g : BitVec 7} :
    tooWide w.bits (min gi (lmax w.bits)) g ↔ tooWide w.bits gi g := by
  rcases Nat.le_total gi (lmax w.bits) with hle | hle
  · rw [Nat.min_eq_left hle]
  · rw [Nat.min_eq_right hle]
    exact ⟨fun h => tooWide_of_lmax_le hle h.1, fun h => tooWide_of_lmax_le (Nat.le_refl _) h.1⟩

section
variable {w : Width} {d : SdecRegs} {acc gi : Nat} {g : BitVec 7}

theorem Tracks.tooWide_iff (h : Tracks w d acc gi) :
    tooWide d.dW.bits d.gi.toNat g ↔ tooWide w.bits gi g := by
  rw [h.width, h.index, tooWide_saturated]

theorem Tracks.acc_below_group (h : Tracks w d acc gi) : d.acc.toNat < 2 ^ (7 * d.gi.toNat) := by
  rw [h.value, h.index]
  rcases Nat.le_total gi (lmax w.bits) with hle | hle
  · rw [Nat.min_eq_left hle]
    exact h.below
  · rw [Nat.min_eq_right hle]
    exact h.fits.trans_le (Nat.pow_le_pow_right (by decide) (lmax_bounds w).2.2)

/-- A group that fits adds the same at either index. -/
theorem Tracks.sum_eq (h : Tracks w d acc gi) (hfits : ¬ tooWide w.bits gi g) :
    d.acc.toNat + g.toNat * 2 ^ (7 * d.gi.toNat) = acc + g.toNat * 2 ^ (7 * gi) := by
  rw [h.value, h.index]
  rcases Nat.le_total gi (lmax w.bits) with hle | hle
  · rw [Nat.min_eq_left hle]
  · have hzero : g = 0 := by_contra fun hg => hfits (tooWide_of_lmax_le hle hg)
    simp [hzero]

theorem Tracks.last (h : Tracks w d acc gi) (hfits : ¬ tooWide w.bits gi g) (p : Profile) :
    ∃ v, v.toNat = acc + g.toNat * 2 ^ (7 * gi) ∧
      byteStep p (contLast p) g d =
        { d with dState := .done, acc := v, dStatus := .ok, dEtok := ⟨0⟩ } := by
  obtain ⟨v, hv, hd⟩ := byteStep_last_eq p h.acc_below_group (mt h.tooWide_iff.1 hfits)
  exact ⟨v, hv.trans (h.sum_eq hfits), hd⟩

theorem Tracks.more (h : Tracks w d acc gi) (hfits : ¬ tooWide w.bits gi g) (p : Profile) :
    Tracks w (byteStep p (contMore p) g d) (acc + g.toNat * 2 ^ (7 * gi)) (gi + 1) := by
  obtain ⟨v, gi', hv, hgi, hd⟩ := byteStep_more_eq p h.acc_below_group (mt h.tooWide_iff.1 hfits)
  rw [hd]
  refine ⟨h.width, hv.trans (h.sum_eq hfits), hgi.trans ?_,
    acc_add_group_lt h.fits h.below hfits, acc_add_group_lt_next g h.below⟩
  rw [h.index, h.width]
  omega

end

/-! ## A run over the source's answers -/

/-- `SDEC` is reading, and the next events are the source's, one for each of `answers`. -/
structure ReadingAnswers (answers : List SrcAnswer) (s : State) : Prop where
  reading : s.sdec.dState = .read
  sched : s.env.sched = List.replicate answers.length .source
  answers_eq : s.env.srcAnswers = answers

/-- How many answers the summary's end takes, after `m` bytes. -/
def answersTaken (m : Nat) : Summary → Nat
  | .ok _ | .overflow => m
  | .io _ => m + 1

/-- Status, token and value show the summary's end (42_std_decoder.md R155, R159). -/
def ShowsSummary (d : SdecRegs) : Summary → Prop
  | .ok v => d.dStatus = .ok ∧ d.dEtok = ⟨0⟩ ∧ d.acc.toNat = v
  | .overflow => d.dStatus = .overflow ∧ d.dEtok = ⟨0⟩ ∧ d.acc = 0
  | .io e => d.dStatus = .io ∧ d.dEtok = e ∧ d.acc = 0

/-- From `s`, with one read outstanding, to `t`, `SDEC` takes `m` bytes and ends as `r` says. -/
structure EndsAs (r : Summary) (m : Nat) (s t : State) : Prop where
  done : t.sdec.dState = .done
  shows : ShowsSummary t.sdec r
  consumed : t.env.consumed = s.env.consumed + m
  answers : t.env.srcAnswers = s.env.srcAnswers.drop (answersTaken m r)
  issued : ∃ n, answersTaken m r = n + 1 ∧ t.env.issued = s.env.issued ++ List.replicate n .srcRead

/-- Source events after the end of the operation change nothing but the schedule. -/
theorem run_source_of_not_read (n : Nat) {s : State} (hread : s.sdec.dState ≠ .read)
    (hsched : s.env.sched = List.replicate n .source) :
    Host.Core.run core n s = .next (popEvent [] s) := by
  induction n generalizing s with
  | zero =>
    change s.env.sched = [] at hsched
    rw [popEvent, ← hsched]
    rfl
  | succ n ih =>
    rw [List.replicate_succ] at hsched
    exact (run_succ n (step_source_of_not_read hsched hread)).trans (ih hread rfl)

/-- The answer that ends the operation, and the events left over. -/
theorem run_of_ending_step {r : Summary} {m n : Nat} {s u : State} (hstep : step s = .next u)
    (hsched : u.env.sched = List.replicate n .source) (hu : EndsAs r m s u) :
    ∃ t, Host.Core.run core (n + 1) s = .next t ∧ EndsAs r m s t := by
  have hread : u.sdec.dState ≠ .read := by simp [hu.done]
  exact ⟨popEvent [] u, (run_succ n hstep).trans (run_source_of_not_read n hread hsched), hu.done,
    hu.shows, hu.consumed, hu.answers, hu.issued⟩

/-- A failed read ends the operation at once. -/
theorem ReadingAnswers.step_fail {e : ErrTok} {rest : List SrcAnswer} {s : State}
    (h : ReadingAnswers (.fail e :: rest) s) :
    ∃ u, step s = .next u ∧ u.env.sched = List.replicate rest.length .source ∧
      EndsAs (.io e) 0 s u := by
  refine ⟨_, step_source_of_fail h.sched h.reading h.answers_eq, rfl, rfl, ⟨rfl, rfl, rfl⟩, rfl, ?_,
    0, rfl, (List.append_nil _).symm⟩
  rw [h.answers_eq]
  rfl

/-- The source has delivered `b`. -/
structure AfterByte (b : Byte) (s u : State) : Prop where
  profile : u.profile = s.profile
  sdec : u.sdec = byteStep s.profile (contBit b) (groupBits b) s.sdec
  consumed : u.env.consumed = s.env.consumed + 1
  answers : s.env.srcAnswers = .byte b :: u.env.srcAnswers
  issued : u.env.issued = s.env.issued ++ if u.sdec.dState = .read then [.srcRead] else []

theorem ReadingAnswers.step_byte {b : Byte} {rest : List SrcAnswer} {s : State}
    (h : ReadingAnswers (.byte b :: rest) s) :
    ∃ u, step s = .next u ∧ u.env.sched = List.replicate rest.length .source ∧
      u.env.srcAnswers = rest ∧ AfterByte b s u :=
  ⟨_, step_source_of_byte h.sched h.reading h.answers_eq, rfl, rfl, rfl, rfl, rfl, h.answers_eq,
    rfl⟩

/-- A byte that ends the operation issues no read. -/
theorem AfterByte.endsAs {b : Byte} {r : Summary} {s u : State} (h : AfterByte b s u)
    (hdone : u.sdec.dState = .done) (hshows : ShowsSummary u.sdec r) (hr : answersTaken 1 r = 1) :
    EndsAs r 1 s u := by
  refine ⟨hdone, hshows, h.consumed, ?_, 0, hr, ?_⟩
  · rw [h.answers, hr]
    rfl
  · simp [h.issued, hdone]

/-- A byte after which the operation goes on. -/
theorem EndsAs.cons {b : Byte} {r : Summary} {m : Nat} {s u t : State} (h : EndsAs r m u t)
    (hbyte : AfterByte b s u) (hread : u.sdec.dState = .read) : EndsAs r (m + 1) s t := by
  have htaken : answersTaken (m + 1) r = answersTaken m r + 1 := by cases r <;> rfl
  obtain ⟨hdone, hshows, hcount, hrest, n, hn, hreads⟩ := h
  refine ⟨hdone, hshows, ?_, ?_, n + 1, by rw [htaken, hn], ?_⟩
  · rw [hcount, hbyte.consumed, Nat.add_assoc, Nat.add_comm 1]
  · rw [hrest, hbyte.answers, htaken, List.drop_succ_cons]
  · rw [hreads, hbyte.issued, if_pos hread, List.append_assoc, List.replicate_succ,
      List.singleton_append]

/-- The registers follow the summary's loop: by induction on the answers, one source event each. -/
theorem run_summaryFrom {w : Width} (answers : List SrcAnswer) {s : State} {acc gi k : Nat}
    {r : Summary} (hs : ReadingAnswers answers s) (hd : Tracks w s.sdec acc gi)
    (hsum : summaryFrom s.profile w.bits answers acc gi = some (r, k)) :
    ∃ m t, k = gi + m ∧ Host.Core.run core answers.length s = .next t ∧ EndsAs r m s t := by
  induction answers generalizing s acc gi with
  | nil => nomatch hsum
  | cons a rest ih =>
    cases a with
    | fail e =>
      cases hsum
      obtain ⟨u, hstep, hsched, hends⟩ := hs.step_fail
      obtain ⟨t, ht⟩ := run_of_ending_step hstep hsched hends
      exact ⟨0, t, rfl, ht⟩
    | byte b =>
      obtain ⟨u, hstep, hsched, hrest, hu⟩ := hs.step_byte
      have hsdec := hu.sdec
      by_cases hwide : tooWide w.bits gi (groupBits b)
      · rw [summaryFrom_of_tooWide hwide] at hsum
        rw [byteStep_of_tooWide (hd.tooWide_iff.2 hwide)] at hsdec
        cases hsum
        have hends := hu.endsAs (r := .overflow) (by rw [hsdec]; rfl)
          (by rw [hsdec]; exact ⟨rfl, rfl, rfl⟩) rfl
        obtain ⟨t, ht⟩ := run_of_ending_step hstep hsched hends
        exact ⟨1, t, rfl, ht⟩
      by_cases hlast : contBit b = contLast s.profile
      · obtain ⟨v, hv, hbyte⟩ := hd.last hwide s.profile
        rw [summaryFrom_of_last hwide hlast] at hsum
        rw [hlast, hbyte] at hsdec
        cases hsum
        have hends := hu.endsAs (r := .ok _) (by rw [hsdec])
          (by rw [hsdec]; exact ⟨rfl, rfl, hv⟩) rfl
        obtain ⟨t, ht⟩ := run_of_ending_step hstep hsched hends
        exact ⟨1, t, rfl, ht⟩
      · have hmore := eq_contMore_of_ne_contLast hlast
        have hread : u.sdec.dState = .read := by
          rw [hsdec, byteStep_dState_of_more hmore (mt hd.tooWide_iff.1 hwide), hs.reading]
        rw [summaryFrom_of_more hwide hlast] at hsum
        rw [hmore] at hsdec
        obtain ⟨m, t, rfl, hrun, ht⟩ := ih ⟨hread, hsched, hrest⟩
          (hsdec ▸ hd.more hwide s.profile) (hu.profile ▸ hsum)
        exact ⟨m + 1, t, by omega, (run_succ _ hstep).trans hrun, ht.cons hu hread⟩

/-- Settles O27: the registers track the summary's variables until the answer that ends both. -/
theorem sdecRefinesItsSummary : Obligations.SdecRefinesItsSummary := by
  intro i w s s' answers r k hi hidle h hsum
  obtain rfl := exec_sdec_of_idle hi hidle h
  obtain ⟨m, t, hk, hrun, hends⟩ := run_summaryFrom (w := w) answers
    (s := withAnswers answers (issue [.srcRead] { s with sdec := startSdec w s.sdec }))
    ⟨rfl, rfl, rfl⟩ (startSdec_tracks w s.sdec) hsum
  obtain rfl : k = m := hk.trans (Nat.zero_add m)
  obtain ⟨hdone, hshows, hcount, hrest, n, hn, hreads⟩ := hends
  have hissued : t.env.issued = s.env.issued ++ List.replicate (answersTaken k r) .srcRead := by
    rw [hreads, hn, List.replicate_succ]
    simp [withAnswers]
  refine ⟨t, hrun, hdone, hcount, ?_⟩
  cases r with
  | ok v =>
    obtain ⟨hstatus, htoken, hvalue⟩ := hshows
    exact ⟨hstatus, htoken, hvalue, hrest, hissued⟩
  | overflow =>
    obtain ⟨hstatus, htoken, hvalue⟩ := hshows
    exact ⟨hstatus, htoken, hvalue, hrest, hissued⟩
  | io e =>
    obtain ⟨hstatus, htoken, hvalue⟩ := hshows
    exact ⟨hstatus, htoken, hvalue, hrest, hissued⟩

/-! ## A value too large for the width (20_memory.md R61) -/

/-- Where the rest of the value is one group and does not fit, that group is too wide. -/
theorem summaryFrom_lastByte_overflow (p : Profile) {w acc gi : Nat} {n : BitVec 128}
    (hn : n.toNat < 128) (hfits : acc < 2 ^ w) (hbelow : acc < 2 ^ (7 * gi))
    (hlarge : 2 ^ w ≤ acc + n.toNat * 2 ^ (7 * gi)) :
    summaryFrom p w [.byte (wireByte (contLast p) (n.extractLsb' 0 7))] acc gi =
      some (.overflow, gi + 1) := by
  have hwide : tooWide w gi (n.extractLsb' 0 7) := by
    by_contra hgroup
    have hsum := acc_add_group_lt hfits hbelow hgroup
    rw [group_toNat, Nat.mod_eq_of_lt hn] at hsum
    omega
  exact summaryFrom_of_tooWide (by rwa [groupBits_wireByte])

/-- The groups of a value that does not fit cannot all fit. -/
theorem summaryFrom_encodeLoop_overflow (p : Profile) {w : Nat} (fuel : Nat) {n : BitVec 128}
    {acc gi : Nat} (hn : n.toNat < 128 ^ (fuel + 1)) (hfits : acc < 2 ^ w)
    (hbelow : acc < 2 ^ (7 * gi)) (hlarge : 2 ^ w ≤ acc + n.toNat * 2 ^ (7 * gi)) :
    ∃ k, summaryFrom p w ((encodeLoop p (fuel + 1) n).map .byte) acc gi = some (.overflow, k) := by
  induction fuel generalizing n acc gi with
  | zero =>
    rw [encodeLoop_of_lt p 0 hn]
    exact ⟨gi + 1, summaryFrom_lastByte_overflow p hn hfits hbelow hlarge⟩
  | succ fuel ih =>
    rcases Nat.lt_or_ge n.toNat 128 with hlast | hmore
    · rw [encodeLoop_of_lt p _ hlast]
      exact ⟨gi + 1, summaryFrom_lastByte_overflow p hlast hfits hbelow hlarge⟩
    rw [encodeLoop_of_ge p _ hmore, List.map_cons]
    by_cases hwide : tooWide w gi (n.extractLsb' 0 7)
    · exact ⟨gi + 1, summaryFrom_of_tooWide (by rwa [groupBits_wireByte])⟩
    have hstep := summaryFrom_of_more (p := p) (w := w) (gi := gi) (acc := acc)
      (b := wireByte (contMore p) (n.extractLsb' 0 7))
      (rest := (encodeLoop p (fuel + 1) (n >>> 7)).map .byte) (by rwa [groupBits_wireByte])
      (by rw [contBit_wireByte]; exact contMore_ne_contLast p)
    rw [groupBits_wireByte] at hstep
    have hsum := acc_add_group_lt hfits hbelow hwide
    have hnext := acc_add_group_lt_next (n.extractLsb' 0 7) hbelow
    rw [hstep]
    rw [group_toNat] at hsum hnext ⊢
    have hpow : 2 ^ (7 * (gi + 1)) = 128 * 2 ^ (7 * gi) := by
      rw [Nat.mul_add, Nat.pow_add, Nat.mul_comm]
    refine ih ?_ hsum hnext ?_
    · rw [shiftGroup_toNat]
      exact Nat.div_lt_of_lt_mul (Nat.pow_succ' ▸ hn)
    · rwa [shiftGroup_toNat, hpow, ← Nat.mul_assoc, Nat.add_assoc, ← Nat.add_mul,
        Nat.mul_comm (n.toNat / 128), Nat.mod_add_div]

/-- Settles O29: the summary of `SENC`'s bytes at the narrow width is `Overflow`. -/
theorem narrowDecodeOverflows : Obligations.NarrowDecodeOverflows := by
  intro i j w w2 s s1 s2 hi hj hsenc hsdec h1 h2 hlarge
  have hs1 := exec_senc_of_idle hi hsenc h1
  have hidle : s1.sdec.dState = .idle := by rw [hs1]; exact hsdec
  have hbytes : outBytes s1.senc = sencBytes s1.profile s1.senc.sVal := by simp [hs1]
  obtain ⟨k, hsum⟩ := summaryFrom_encodeLoop_overflow s1.profile (gi := 0) 18
    (s1.senc.sVal.isLt.trans (by decide)) (Nat.two_pow_pos w2.bits) (Nat.two_pow_pos _)
    (by simpa using hlarge)
  obtain ⟨t, hrun, hdone, -, hstatus, -, hacc, -⟩ :=
    sdecRefinesItsSummary j w2 s1 s2 _ .overflow k hj hidle h2 hsum
  rw [List.length_map] at hrun
  rw [hbytes]
  exact ⟨t, hrun, hdone, hstatus, hacc⟩

end Sys2Proof.Machine
end

section
/-! PROOFS. 43_fast_encoder.md R171, 30_encoding.md R92 and R94: the bytes `FENC` writes, as
numbers. -/

namespace Sys2Proof.Machine

/-! ## The number of a tier -/

/-- The payload is the value less the tier's offset, without wrapping (30_encoding.md R93). -/
theorem payloadOf_toNat_add (p : Profile) (v : BitVec 64) :
    (payloadOf p (tierOf p v) v).toNat + (if p.tier = .offset then off (tierOf p v) else 0) =
      v.toNat := by
  cases hp : p.tier with
  | absolute => simp [payloadOf, hp]
  | offset =>
    have hoff := off_le_of_tierOf p v hp
    have hoffNat : (BitVec.ofNat 64 (off (tierOf p v))).toNat = off (tierOf p v) := by
      rw [BitVec.toNat_ofNat, Nat.mod_eq_of_lt (hoff.trans_lt v.isLt)]
    rw [payloadOf, hp, if_pos rfl, BitVec.toNat_sub_of_le (by rwa [BitVec.le_def, hoffNat]),
      hoffNat]
    exact Nat.sub_add_cancel hoff

/-- `R` repeated `L-1` times, then `T` (30_encoding.md R92). -/
theorem prefixNumber_toNat (p : Profile) {l : Nat} (h1 : 1 ≤ l) (h8 : l ≤ 8) :
    (prefixNumber p l).toNat = (if p.pfx = .ones then 2 ^ l - 2 else 1) ∧
      (prefixNumber p l).toNat < 2 ^ l := by
  unfold prefixNumber
  cases p.pfx <;> interval_cases l <;> decide

/-- The number `E`: the prefix over the payload, without overlap (30_encoding.md R92). -/
theorem tierNumber_toNat (p : Profile) {l : Nat} {q : BitVec 64} (h1 : 1 ≤ l) (h8 : l ≤ 8)
    (hq : q.toNat < 2 ^ (7 * l)) :
    (tierNumber p l q).toNat =
      (if p.pfx = .ones then 2 ^ l - 2 else 1) * 2 ^ (7 * l) + q.toNat := by
  obtain ⟨hprefix, hlt⟩ := prefixNumber_toNat p h1 h8
  have hmask : (BitVec.ofNat 64 (2 ^ (7 * l) - 1)).toNat = 2 ^ (7 * l) - 1 := by
    have hpow : 2 ^ (7 * l) ≤ 2 ^ 64 := Nat.pow_le_pow_right (by decide) (by omega)
    rw [BitVec.toNat_ofNat, Nat.mod_eq_of_lt (by omega)]
  have hshift : (prefixNumber p l).toNat * 2 ^ (7 * l) < 2 ^ 64 := by
    calc (prefixNumber p l).toNat * 2 ^ (7 * l)
        < 2 ^ l * 2 ^ (7 * l) := Nat.mul_lt_mul_of_pos_right hlt (Nat.two_pow_pos _)
      _ = 2 ^ (l + 7 * l) := (Nat.pow_add ..).symm
      _ ≤ 2 ^ 64 := Nat.pow_le_pow_right (by decide) (by omega)
  rw [tierNumber, BitVec.toNat_or, BitVec.toNat_shiftLeft, BitVec.toNat_and, hmask,
    Nat.and_two_pow_sub_one_eq_mod, Nat.mod_eq_of_lt hq, Nat.shiftLeft_eq, Nat.mod_eq_of_lt hshift,
    ← Nat.shiftLeft_eq, ← Nat.shiftLeft_add_eq_or_of_lt hq, Nat.shiftLeft_eq, hprefix]

/-! ## The bytes -/

theorem bigEndian_getD_toNat {n k : Nat} (hk : k < n) (e : BitVec 64) :
    ((bigEndian n e).getD k 0).toNat = e.toNat / 2 ^ (8 * (n - 1 - k)) % 256 := by
  have hbyte : (bigEndian n e).getD k 0 = (e >>> (8 * (n - 1 - k))).setWidth 8 := by
    simp [bigEndian, hk]
  rw [hbyte, BitVec.toNat_setWidth, BitVec.toNat_ushiftRight, Nat.shiftRight_eq_div_pow]

theorem emptyFirstByte_nine_toNat (p : Profile) :
    (emptyFirstByte p 9).toNat = if p.pfx = .ones then 255 else 0 := by
  unfold emptyFirstByte
  cases p.pfx <;> rfl

/-- The layouts of R92 (tiers 1 to 8) and R94 (tier 9). -/
theorem fencBytes_getD_toNat (p : Profile) {l k : Nat} {q : BitVec 64} (h1 : 1 ≤ l) (h9 : l ≤ 9)
    (hq : l ≤ 8 → q.toNat < 2 ^ (7 * l)) (hk : k < l) :
    ((fencBytes p l q).getD k 0).toNat =
      if l ≤ 8 then
        ((if p.pfx = .ones then 2 ^ l - 2 else 1) * 2 ^ (7 * l) + q.toNat) /
          2 ^ (8 * (l - 1 - k)) % 256
      else if k = 0 then (if p.pfx = .ones then 255 else 0)
      else q.toNat / 2 ^ (8 * (8 - k)) % 256 := by
  by_cases h8 : l ≤ 8
  · rw [fencBytes, if_pos h8, if_pos h8, bigEndian_getD_toNat hk, tierNumber_toNat p h1 h8 (hq h8)]
  · rw [fencBytes, if_neg h8, if_neg h8]
    cases k with
    | zero => exact emptyFirstByte_nine_toNat p
    | succ k =>
      rw [List.getD_cons_succ, bigEndian_getD_toNat (by omega), if_neg (Nat.succ_ne_zero k),
        show 8 - 1 - k = 8 - (k + 1) by omega]

/-- Settles O30: `FBUF` is the tier's bytes, filled up with zero bytes. -/
theorem fencResult : Obligations.FencResult := by
  intro s
  have hregs := fenc_regs_of_exec (exec_fenc_eq_runFenc s)
  have hlow : (s.env.opPort.setWidth 64).toNat = s.env.opPort.toNat % 2 ^ 64 :=
    BitVec.toNat_setWidth 64 _
  refine ⟨_, exec_fenc_eq_runFenc s, ?_⟩
  rw [hregs]
  generalize s.env.opPort.setWidth 64 = v at hlow
  obtain ⟨h1, h9⟩ := tierOf_bounds s.profile v
  have hlength := fencBytes_length s.profile _ (payloadOf s.profile (tierOf s.profile v) v) h9
  simp only [fenc_flen_toNat]
  refine ⟨hlow, trivial, (payloadOf s.profile (tierOf s.profile v) v).toNat,
    payloadOf_toNat_add s.profile v, payloadOf_lt s.profile v, fun k => ?_⟩
  have hbyte : (fenc s.profile v).1[k] =
      (fencBytes s.profile (tierOf s.profile v)
        (payloadOf s.profile (tierOf s.profile v) v)).getD k.val 0 :=
    padBytes_get 9 _ k.val k.isLt
  rw [hbyte]
  by_cases hpast : tierOf s.profile v ≤ k.val
  · rw [if_pos hpast, List.getD_eq_default _ _ (hlength.trans_le hpast)]
    rfl
  · rw [if_neg hpast]
    exact fencBytes_getD_toNat s.profile h1 h9 (payloadOf_lt s.profile v) (Nat.lt_of_not_le hpast)

end Sys2Proof.Machine
end

section
/-! PROOFS. 10_state.md R20, 20_memory.md R67: events of different units commute. Each event reads
and writes what belongs to its own unit, and takes at most that unit's oldest offer. -/

namespace Sys2Proof.Machine

/-! ## What belongs to a unit -/

/-- A unit's registers, and its side of the environment. -/
inductive OwnState where
  | senc (r : SencRegs) (answers : List SinkAnswer) (sunk : List Byte) (freeCtr : Nat)
  | sdec (d : SdecRegs) (answers : List SrcAnswer) (consumed : Nat)
  | fenc (r : FencRegs)
  | fdec (r : FdecRegs)

/-- What of the state belongs to unit `u`, and to no other. -/
def ownState (u : UnitId) (s : State) : OwnState :=
  match u with
  | .senc => .senc s.senc s.env.snkAnswers s.env.sunk s.env.freeCtr
  | .sdec => .sdec s.sdec s.env.srcAnswers s.env.consumed
  | .fenc => .fenc s.fenc
  | .fdec => .fdec s.fdec

/-- The offer names the unit (30_encoding.md R101). -/
def namesUnit (u : UnitId) (c : Command) : Bool := unitOfWord c.word = u

theorem firstOffer_eq (u : UnitId) (l : List Command) :
    firstOffer u l = (l.find? (namesUnit u)).map fun c => (c, l.eraseP (namesUnit u)) := by
  induction l with
  | nil => rfl
  | cons c cs ih =>
    by_cases h : unitOfWord c.word = u
    · simp [firstOffer, namesUnit, h]
    · have hno : namesUnit u c = false := by simpa [namesUnit] using h
      simp [firstOffer, h, ih, hno, Function.comp_def]

/-- Two units are named by different offers. -/
theorem not_namesUnit_of_ne {u v : UnitId} (h : u ≠ v) (c : Command) :
    ¬ namesUnit u c = true ∨ ¬ namesUnit v c = true := by
  by_cases hu : unitOfWord c.word = u
  · exact .inr (by simpa [namesUnit, hu] using h)
  · exact .inl (by simpa [namesUnit] using hu)

theorem find?_eraseP_of_ne {u v : UnitId} (h : u ≠ v) (l : List Command) :
    (l.eraseP (namesUnit v)).find? (namesUnit u) = l.find? (namesUnit u) := by
  induction l with
  | nil => rfl
  | cons c cs ih =>
    rcases not_namesUnit_of_ne h c with hu | hv
    · by_cases hv : namesUnit v c = true <;> simp [hu, hv, ih]
    · simp [List.find?_cons, hv, ih]

/-! ## What an event leaves alone -/

/-- From `s` to `t` only what belongs to `u` changes, and at most its oldest offer is taken. -/
structure OnlyUnit (u : UnitId) (s t : State) : Prop where
  profile : t.profile = s.profile
  sched : t.env.sched = s.env.sched
  others : ∀ v, v ≠ u → ownState v t = ownState v s
  offers : t.env.offers = s.env.offers ∨ t.env.offers = s.env.offers.eraseP (namesUnit u)

theorem OnlyUnit.refl (u : UnitId) (s : State) : OnlyUnit u s s :=
  ⟨rfl, rfl, fun _ _ => rfl, .inl rfl⟩

theorem unitOf_sencRow {i : Instr} {w : Width} (h : (i, w) ∈ sencRows) : unitOf i = .senc :=
  (by decide : ∀ r ∈ sencRows, unitOf r.1 = .senc) (i, w) h

theorem unitOf_sdecRow {i : Instr} {w : Width} (h : (i, w) ∈ sdecRows) : unitOf i = .sdec :=
  (by decide : ∀ r ∈ sdecRows, unitOf r.1 = .sdec) (i, w) h

/-- A command word spells an operation of the unit it names (30_encoding.md R101). -/
theorem unitOf_decodeCommand {c : BitVec 5} {i : Instr} (h : decodeCommand c = some i) :
    unitOf i = unitOfWord c :=
  (by decide : ∀ c : BitVec 5, ∀ i ∈ decodeCommand c, unitOf i = unitOfWord c) c i h

theorem deliverByte_onlyUnit {c : BitVec 1} {g : BitVec 7} {s t : State}
    (h : deliverByte c g s = .next t) :
    OnlyUnit .sdec s t ∧ t.env.offers = s.env.offers := by
  rcases deliverByte_cases c g s with ⟨-, hd⟩ | ⟨-, hd⟩ <;> cases hd.symm.trans h
  · exact ⟨⟨rfl, rfl, fun v hv => by cases v <;> simp [ownState] at hv ⊢, .inl rfl⟩, rfl⟩
  · exact ⟨.refl _ _, rfl⟩

/-- An instruction changes its own unit, and takes no offer. -/
theorem exec_onlyUnit {i : Instr} {s t : State} (h : exec i s = .next t) :
    OnlyUnit (unitOf i) s t ∧ t.env.offers = s.env.offers := by
  rcases exec_cases i s with ⟨w, hrow, hi⟩ | ⟨w, hrow, hi⟩ | ⟨c, g, hrow, hi⟩ | ⟨rfl, hi⟩ |
    ⟨hunit, win, l, q, -, -, hi⟩ <;> rw [hi] at h
  · rw [unitOf_sencRow hrow]
    rcases sencCommand_cases w s with ⟨-, hc⟩ | ⟨-, hc⟩ <;> cases hc.symm.trans h
    · exact ⟨⟨rfl, rfl, fun v hv => by cases v <;> simp [ownState] at hv ⊢, .inl rfl⟩, rfl⟩
    · exact ⟨.refl _ _, rfl⟩
  · rw [unitOf_sdecRow hrow]
    rcases sdecCommand_cases w s with ⟨-, hc⟩ | ⟨-, hc⟩ <;> cases hc.symm.trans h
    · exact ⟨⟨rfl, rfl, fun v hv => by cases v <;> simp [ownState] at hv ⊢, .inl rfl⟩, rfl⟩
    · exact ⟨.refl _ _, rfl⟩
  · have hunit : unitOf i = .sdec := by rcases hrow with ⟨rfl, -⟩ | ⟨rfl, -⟩ <;> rfl
    rw [hunit]
    exact deliverByte_onlyUnit h
  · cases h
    exact ⟨⟨rfl, rfl, fun v hv => by cases v <;> simp [ownState, unitOf] at hv ⊢, .inl rfl⟩, rfl⟩
  · cases h
    rw [hunit]
    exact ⟨⟨rfl, rfl, fun v hv => by cases v <;> simp [ownState] at hv ⊢, .inl rfl⟩, rfl⟩

/-! ## What an event depends on -/

/-- Two states that agree on the straps, on what belongs to `u` and on its oldest offer. -/
structure Alike (u : UnitId) (s s' : State) : Prop where
  profile : s'.profile = s.profile
  own : ownState u s' = ownState u s
  offer : s'.env.offers.find? (namesUnit u) = s.env.offers.find? (namesUnit u)

/-- An event of `u` from `s` to `t` and from `s'` to `t'` does the same to what belongs to `u`. -/
structure ActsAlike (u : UnitId) (s t s' t' : State) : Prop where
  own : ownState u t' = ownState u t
  offers : (t.env.offers = s.env.offers ∧ t'.env.offers = s'.env.offers) ∨
    (t.env.offers = s.env.offers.eraseP (namesUnit u) ∧
      t'.env.offers = s'.env.offers.eraseP (namesUnit u))

/-- An event of another unit leaves alone what `u` depends on. -/
theorem OnlyUnit.alike {u v : UnitId} {s t : State} (h : OnlyUnit v s t) (hne : u ≠ v) :
    Alike u s t := by
  refine ⟨h.profile, h.others u hne, ?_⟩
  rcases h.offers with hoffers | hoffers <;> rw [hoffers]
  exact find?_eraseP_of_ne hne _

theorem acceptsCommand_congr {u : UnitId} {s s' : State} (h : ownState u s' = ownState u s) :
    acceptsCommand u s' = acceptsCommand u s := by
  cases u <;> simp_all [ownState, acceptsCommand]

theorem offeredResult_congr {u : UnitId} {s s' : State} (h : ownState u s' = ownState u s) :
    offeredResult u s' = offeredResult u s := by
  cases u <;> simp_all [ownState, offeredResult]

section
variable {s s' t : State}

theorem deliverByte_alike {c : BitVec 1} {g : BitVec 7} (hp : s'.profile = s.profile)
    (hown : ownState .sdec s' = ownState .sdec s) (h : deliverByte c g s = .next t) :
    ∃ t', deliverByte c g s' = .next t' ∧ ownState .sdec t' = ownState .sdec t := by
  simp only [ownState, OwnState.sdec.injEq] at hown
  obtain ⟨hsdec, hans, hcount⟩ := hown
  by_cases hread : s.sdec.dState = .read
  · simp only [deliverByte, hread, hsdec, hp, if_true] at h ⊢
    cases h
    exact ⟨_, rfl, by simp [ownState, hans, hcount]⟩
  · simp only [deliverByte, hread, hsdec, if_false] at h ⊢
    cases h
    exact ⟨_, rfl, by simp [ownState, hsdec, hans, hcount]⟩

theorem sencCommand_alike {w : Width} (hp : s'.profile = s.profile)
    (hown : ownState .senc s' = ownState .senc s) (hop : s'.env.opPort = s.env.opPort)
    (h : sencCommand w s = .next t) :
    ∃ t', sencCommand w s' = .next t' ∧ ownState .senc t' = ownState .senc t := by
  have haccepts := acceptsCommand_congr hown
  simp only [ownState, OwnState.senc.injEq] at hown
  obtain ⟨hsenc, hans, hsunk, hctr⟩ := hown
  by_cases hidle : acceptsCommand .senc s = true
  · simp only [sencCommand, haccepts, hidle, if_true, hp, hop, hsenc] at h ⊢
    cases h
    exact ⟨_, rfl, by simp [ownState, hans, hsunk, hctr]⟩
  · simp only [sencCommand, haccepts, hidle] at h ⊢
    cases h
    exact ⟨_, rfl, by simp [ownState, hsenc, hans, hsunk, hctr]⟩

theorem sdecCommand_alike {w : Width} (hown : ownState .sdec s' = ownState .sdec s)
    (h : sdecCommand w s = .next t) :
    ∃ t', sdecCommand w s' = .next t' ∧ ownState .sdec t' = ownState .sdec t := by
  have haccepts := acceptsCommand_congr hown
  simp only [ownState, OwnState.sdec.injEq] at hown
  obtain ⟨hsdec, hans, hcount⟩ := hown
  by_cases hidle : acceptsCommand .sdec s = true
  · simp only [sdecCommand, haccepts, hidle, if_true, hsdec] at h ⊢
    cases h
    exact ⟨_, rfl, by simp [ownState, hans, hcount]⟩
  · simp only [sdecCommand, haccepts, hidle] at h ⊢
    cases h
    exact ⟨_, rfl, by simp [ownState, hsdec, hans, hcount]⟩

/-- Of the instructions of `FDEC` only `FDEC` itself has a command word (30_encoding.md R100). -/
theorem eq_fdec_of_decodeCommand {c : BitVec 5} {i : Instr} (h : decodeCommand c = some i)
    (hunit : unitOf i = .fdec) : i = .fdec :=
  (by decide : ∀ c : BitVec 5, ∀ i ∈ decodeCommand c, unitOf i = .fdec → i = .fdec) c i h hunit

/-- A command reads its unit, the straps and the two ports. -/
theorem exec_command_alike {i : Instr} {c : BitVec 5} (hi : decodeCommand c = some i)
    (hp : s'.profile = s.profile) (hown : ownState (unitOf i) s' = ownState (unitOf i) s)
    (hop : s'.env.opPort = s.env.opPort) (hwin : s'.env.winPort = s.env.winPort)
    (h : exec i s = .next t) :
    ∃ t', exec i s' = .next t' ∧ ownState (unitOf i) t' = ownState (unitOf i) t := by
  rcases exec_cases i s with ⟨w, hrow, -⟩ | ⟨w, hrow, -⟩ | ⟨b, g, hrow, -⟩ | ⟨rfl, -⟩ | ⟨hunit, -⟩
  · rw [unitOf_sencRow hrow] at hown ⊢
    rw [exec_sencRow hrow] at h ⊢
    exact sencCommand_alike hp hown hop h
  · rw [unitOf_sdecRow hrow] at hown ⊢
    rw [exec_sdecRow hrow] at h ⊢
    exact sdecCommand_alike hown h
  · have hbyte : i ∈ [.svlqByteMore g, .svlqByteLast g] := by
      rcases hrow with ⟨rfl, -⟩ | ⟨rfl, -⟩ <;> simp
    exact absurd hbyte (not_byte_of_decodeCommand hi g)
  · refine ⟨_, exec_fenc_eq_runFenc s', ?_⟩
    cases h
    simp [unitOf, ownState, runFenc, hp, hop]
  · obtain rfl := eq_fdec_of_decodeCommand hi hunit
    refine ⟨_, exec_fdec_eq_runFdec s', ?_⟩
    rw [exec_fdec_eq_runFdec] at h
    cases h
    simp [unitOf, ownState, runFdec, hp, hwin]

theorem takeResult_alike {u : UnitId} (hown : ownState u s' = ownState u s) :
    ownState u (takeResult u s') = ownState u (takeResult u s) := by
  have hoffer := offeredResult_congr hown
  rcases takeResult_cases u s with ⟨hr, h⟩ | ⟨r, hr, h⟩ <;>
    rcases takeResult_cases u s' with ⟨hr', h'⟩ | ⟨r', hr', h'⟩ <;>
    rw [hoffer, hr] at hr' <;> cases hr' <;> rw [h, h']
  · exact hown
  · cases u <;> simp_all [ownState, releaseUnit]

theorem sinkAnswer_alike (a : SinkAnswer) (hown : ownState .senc s' = ownState .senc s) :
    ownState .senc (sinkAnswer a s') = ownState .senc (sinkAnswer a s) := by
  simp only [ownState, OwnState.senc.injEq] at hown
  obtain ⟨hsenc, hans, hsunk, hctr⟩ := hown
  cases a <;> simp [ownState, sinkAnswer, hsenc, hans, hsunk, hctr]

/-! ## The events, one by one -/

theorem acceptEvent_onlyUnit {u : UnitId} (h : acceptEvent u s = .next t) : OnlyUnit u s t := by
  cases hfind : s.env.offers.find? (namesUnit u) with
  | none =>
    rw [acceptEvent_of_none (by rw [firstOffer_eq, hfind]; rfl)] at h
    cases h
    exact .refl u s
  | some c =>
    have hoffer : firstOffer u s.env.offers = some (c, s.env.offers.eraseP (namesUnit u)) := by
      rw [firstOffer_eq, hfind]
      rfl
    cases hword : decodeCommand c.word with
    | none =>
      rw [acceptEvent_of_reserved hoffer hword] at h
      nomatch h
    | some i =>
      rw [acceptEvent_of_command hoffer hword] at h
      split at h
      case isFalse =>
        cases h
        exact .refl u s
      case isTrue =>
        have hunit : unitOf i = u := (unitOf_decodeCommand hword).trans (firstOffer_some hoffer).1
        obtain ⟨⟨hp, hsched, hothers, -⟩, hoffers⟩ := exec_onlyUnit h
        rw [hunit] at hothers
        exact ⟨hp, hsched, fun v hv => (hothers v hv).trans (by cases v <;> rfl), .inr hoffers⟩

theorem acceptEvent_alike {u : UnitId} (ha : Alike u s s') (h : acceptEvent u s = .next t) :
    ∃ t', acceptEvent u s' = .next t' ∧ ActsAlike u s t s' t' := by
  cases hfind : s.env.offers.find? (namesUnit u) with
  | none =>
    rw [acceptEvent_of_none (by rw [firstOffer_eq, hfind]; rfl)] at h
    cases h
    exact ⟨s', acceptEvent_of_none (by rw [firstOffer_eq, ha.offer, hfind]; rfl), ha.own,
      .inl ⟨rfl, rfl⟩⟩
  | some c =>
    have hoffer : firstOffer u s.env.offers = some (c, s.env.offers.eraseP (namesUnit u)) := by
      rw [firstOffer_eq, hfind]
      rfl
    have hoffer' : firstOffer u s'.env.offers = some (c, s'.env.offers.eraseP (namesUnit u)) := by
      rw [firstOffer_eq, ha.offer, hfind]
      rfl
    cases hword : decodeCommand c.word with
    | none =>
      rw [acceptEvent_of_reserved hoffer hword] at h
      nomatch h
    | some i =>
      rw [acceptEvent_of_command hoffer hword] at h
      rw [acceptEvent_of_command hoffer' hword, acceptsCommand_congr ha.own]
      split at h
      case isFalse hbusy =>
        cases h
        exact ⟨s', if_neg hbusy, ha.own, .inl ⟨rfl, rfl⟩⟩
      case isTrue haccepts =>
        have hunit : unitOf i = u := (unitOf_decodeCommand hword).trans (firstOffer_some hoffer).1
        have hports (x : State) (rest : List Command) :
            ownState u (drivePorts c rest x) = ownState u x := by cases u <;> rfl
        obtain ⟨t', ht', hown⟩ := exec_command_alike hword
          (s := drivePorts c (s.env.offers.eraseP (namesUnit u)) s)
          (s' := drivePorts c (s'.env.offers.eraseP (namesUnit u)) s') ha.profile
          (by rw [hunit, hports, hports, ha.own]) rfl rfl h
        rw [hunit] at hown
        exact ⟨t', (if_pos haccepts).trans ht', hown,
          .inr ⟨(exec_onlyUnit h).2, (exec_onlyUnit ht').2⟩⟩

/-- The source's answers belong to `SDEC`. -/
theorem OnlyUnit.of_popSource {rest : List SrcAnswer} (h : OnlyUnit .sdec (popSource rest s) t) :
    OnlyUnit .sdec s t := by
  refine ⟨h.profile, h.sched, fun v hv => (h.others v hv).trans ?_, h.offers⟩
  cases v <;> simp [ownState] at hv ⊢

theorem sourceFails_onlyUnit (e : ErrTok) (s : State) : OnlyUnit .sdec s (sourceFails e s) :=
  ⟨rfl, rfl, fun v hv => by cases v <;> simp [ownState, sourceFails] at hv ⊢, .inl rfl⟩

theorem sinkAnswer_onlyUnit (a : SinkAnswer) (s : State) :
    OnlyUnit .senc s (sinkAnswer a s) ∧ (sinkAnswer a s).env.offers = s.env.offers := by
  cases a <;>
    exact ⟨⟨rfl, rfl, fun v hv => by cases v <;> simp [ownState, sinkAnswer] at hv ⊢, .inl rfl⟩,
      rfl⟩

theorem sourceEvent_onlyUnit (h : sourceEvent s = .next t) :
    OnlyUnit .sdec s t ∧ t.env.offers = s.env.offers := by
  unfold sourceEvent at h
  split at h
  case isFalse =>
    cases h
    exact ⟨.refl _ _, rfl⟩
  case isTrue =>
    split at h
    case h_1 =>
      cases h
      exact ⟨.refl _ _, rfl⟩
    case h_2 b rest _ =>
      have hd : deliverByte (contBit b) (groupBits b) (popSource rest s) = .next t := by
        rw [← exec_decodeSource]
        exact h
      obtain ⟨hu, hoffers⟩ := deliverByte_onlyUnit hd
      exact ⟨hu.of_popSource, hoffers⟩
    case h_3 e rest _ =>
      cases h
      exact ⟨(sourceFails_onlyUnit e (popSource rest s)).of_popSource, rfl⟩

theorem sourceEvent_alike (hp : s'.profile = s.profile)
    (hown : ownState .sdec s' = ownState .sdec s) (h : sourceEvent s = .next t) :
    ∃ t', sourceEvent s' = .next t' ∧ ownState .sdec t' = ownState .sdec t := by
  have hall := hown
  simp only [ownState, OwnState.sdec.injEq] at hown
  obtain ⟨hsdec, hans, hcount⟩ := hown
  simp only [sourceEvent, hsdec, hans] at h ⊢
  split at h
  case isFalse hread =>
    cases h
    exact ⟨s', if_neg hread, hall⟩
  case isTrue hread =>
    rw [if_pos hread]
    cases hs : s.env.srcAnswers with
    | nil =>
      simp only [hs] at h ⊢
      cases h
      exact ⟨s', rfl, hall⟩
    | cons a rest =>
      cases a with
      | fail e =>
        simp only [hs] at h ⊢
        cases h
        exact ⟨_, rfl, by simp [ownState, sourceFails, hsdec, hcount]⟩
      | byte b =>
        simp only [hs] at h ⊢
        have hd : deliverByte (contBit b) (groupBits b) (popSource rest s) = .next t := by
          rw [← exec_decodeSource]
          exact h
        obtain ⟨t', ht', ho⟩ := deliverByte_alike
          (s := popSource rest s) (s' := popSource rest s') hp
          (by simp [ownState, hsdec, hcount]) hd
        rw [← exec_decodeSource] at ht'
        exact ⟨t', ht', ho⟩

theorem sinkEvent_onlyUnit (h : sinkEvent s = .next t) :
    OnlyUnit .senc s t ∧ t.env.offers = s.env.offers := by
  unfold sinkEvent at h
  split at h
  case isFalse =>
    cases h
    exact ⟨.refl _ _, rfl⟩
  case isTrue =>
    split at h <;> cases h
    case h_1 => exact ⟨.refl _ _, rfl⟩
    case h_2 a rest _ =>
      obtain ⟨⟨hp, hsched, hothers, -⟩, hoffers⟩ := sinkAnswer_onlyUnit a (popSink rest s)
      refine ⟨⟨hp, hsched, fun v hv => (hothers v hv).trans ?_, .inl hoffers⟩, hoffers⟩
      cases v <;> simp [ownState] at hv ⊢

theorem sinkEvent_alike (hown : ownState .senc s' = ownState .senc s) (h : sinkEvent s = .next t) :
    ∃ t', sinkEvent s' = .next t' ∧ ownState .senc t' = ownState .senc t := by
  have hall := hown
  simp only [ownState, OwnState.senc.injEq] at hown
  obtain ⟨hsenc, hans, hsunk, hctr⟩ := hown
  simp only [sinkEvent, hsenc, hans] at h ⊢
  split at h
  case isFalse hwrite =>
    cases h
    exact ⟨s', if_neg hwrite, hall⟩
  case isTrue hwrite =>
    rw [if_pos hwrite]
    cases hs : s.env.snkAnswers with
    | nil =>
      simp only [hs] at h ⊢
      cases h
      exact ⟨s', rfl, hall⟩
    | cons a rest =>
      simp only [hs] at h ⊢
      cases h
      exact ⟨_, rfl, sinkAnswer_alike a (by simp [ownState, hsenc, hsunk, hctr])⟩

theorem takeResult_onlyUnit (u : UnitId) (s : State) :
    OnlyUnit u s (takeResult u s) ∧ (takeResult u s).env.offers = s.env.offers := by
  rcases takeResult_cases u s with ⟨-, h⟩ | ⟨r, -, h⟩ <;> rw [h]
  · exact ⟨.refl _ _, rfl⟩
  · refine ⟨⟨by cases u <;> rfl, rfl, fun v hv => ?_, .inl rfl⟩, rfl⟩
    cases u <;> cases v <;> simp [ownState, releaseUnit] at hv ⊢

theorem windowEvent_eq_runFdec (win : Bytes 9) (s : State) :
    windowEvent win s = .next (runFdec win (driveWindow win s)) :=
  (exec_decodeWindow (driveWindow win s)).trans (exec_fdec_eq_runFdec _)

/-! ## Any event -/

theorem runAction_onlyUnit {a : Action} (h : runAction a s = .next t) :
    OnlyUnit (agentOf a) s t := by
  cases a with
  | accept u => exact acceptEvent_onlyUnit h
  | source => exact (sourceEvent_onlyUnit h).1
  | sink => exact (sinkEvent_onlyUnit h).1
  | take u =>
    cases h
    exact (takeResult_onlyUnit u s).1
  | window win =>
    rw [runAction, windowEvent_eq_runFdec] at h
    cases h
    exact ⟨rfl, rfl, fun v hv => by cases v <;> simp [ownState, runFdec, agentOf] at hv ⊢, .inl rfl⟩

theorem runAction_alike {a : Action} (ha : Alike (agentOf a) s s') (h : runAction a s = .next t) :
    ∃ t', runAction a s' = .next t' ∧ ActsAlike (agentOf a) s t s' t' := by
  cases a with
  | accept u => exact acceptEvent_alike ha h
  | source =>
    obtain ⟨t', ht', hown⟩ := sourceEvent_alike ha.profile ha.own h
    exact ⟨t', ht', hown, .inl ⟨(sourceEvent_onlyUnit h).2, (sourceEvent_onlyUnit ht').2⟩⟩
  | sink =>
    obtain ⟨t', ht', hown⟩ := sinkEvent_alike ha.own h
    exact ⟨t', ht', hown, .inl ⟨(sinkEvent_onlyUnit h).2, (sinkEvent_onlyUnit ht').2⟩⟩
  | take u =>
    cases h
    exact ⟨_, rfl, takeResult_alike ha.own,
      .inl ⟨(takeResult_onlyUnit u s).2, (takeResult_onlyUnit u s').2⟩⟩
  | window win =>
    rw [runAction, windowEvent_eq_runFdec] at h
    cases h
    refine ⟨_, windowEvent_eq_runFdec win s', ?_, .inl ⟨rfl, rfl⟩⟩
    simp [agentOf, ownState, runFdec, ha.profile]

end

/-! ## Two events -/

@[simp] theorem ownState_popEvent (u : UnitId) (rest : List Action) (s : State) :
    ownState u (popEvent rest s) = ownState u s := by
  cases u <;> rfl

theorem Alike.symm {u : UnitId} {s s' : State} (h : Alike u s s') : Alike u s' s :=
  ⟨h.profile.symm, h.own.symm, h.offer.symm⟩

/-- The schedule is no part of what a unit depends on. -/
theorem Alike.popEvent {u : UnitId} {s s' : State} (h : Alike u s s') (rest rest' : List Action) :
    Alike u (popEvent rest s) (popEvent rest' s') :=
  ⟨h.profile, by simp [h.own], h.offer⟩

/-- Event `a` takes `s` to `m`, and then event `b` takes that to `t`. -/
structure RunsTwo (a b : Action) (s m t : State) : Prop where
  earlier : runAction a (popEvent [b] s) = .next m
  later : runAction b (popEvent [] m) = .next t

theorem step_of_run_succ {n : Nat} {s t : State} (h : Host.Core.run core (n + 1) s = .next t) :
    ∃ m, step s = .next m ∧ Host.Core.run core n m = .next t := by
  rcases step_next_or_reserved s with ⟨m, hm⟩ | ⟨c, -, -, hc⟩
  · exact ⟨m, hm, run_succ n hm ▸ h⟩
  · have hc' : core.step s = .refused (.reservedCommand c.word) := hc
    simp only [Host.Core.run, hc'] at h
    nomatch h

theorem run_two_iff {a b : Action} {s t : State} :
    Host.Core.run core 2 { s with env := { s.env with sched := [a, b] } } = .next t ↔
      ∃ m, RunsTwo a b s m t := by
  have hstep : step { s with env := { s.env with sched := [a, b] } } =
      runAction a (popEvent [b] s) :=
    step_eq_runAction rfl
  have hnext {m : State} (h : runAction a (popEvent [b] s) = .next m) :
      step m = runAction b (popEvent [] m) :=
    step_eq_runAction (runAction_onlyUnit h).sched
  constructor
  · intro h
    obtain ⟨m, hm, hrun⟩ := step_of_run_succ h
    obtain ⟨u, hu, hdone⟩ := step_of_run_succ hrun
    rw [hstep] at hm
    rw [hnext hm] at hu
    cases hdone
    exact ⟨m, hm, hu⟩
  · rintro ⟨m, hearlier, hlater⟩
    rw [run_succ 1 (hstep.trans hearlier), run_succ 0 ((hnext hearlier).trans hlater)]
    rfl

/-- In either order both events act alike. -/
theorem RunsTwo.swap {a b : Action} {s m t : State} (hne : agentOf a ≠ agentOf b)
    (h : RunsTwo a b s m t) :
    ∃ m' t', RunsTwo b a s m' t' ∧
      ActsAlike (agentOf a) (popEvent [b] s) m (popEvent [] m') t' ∧
      ActsAlike (agentOf b) (popEvent [] m) t (popEvent [a] s) m' := by
  have hb := (runAction_onlyUnit h.earlier).alike hne.symm
  obtain ⟨m', hm', hactsB⟩ := runAction_alike (hb.symm.popEvent [] [a]) h.later
  have ha := (runAction_onlyUnit hm').alike hne
  obtain ⟨t', ht', hactsA⟩ := runAction_alike (ha.popEvent [b] []) h.earlier
  exact ⟨m', t', ⟨hm', ht'⟩, hactsA, hactsB⟩

/-- A unit that is neither event's keeps what belongs to it. -/
theorem RunsTwo.others {a b : Action} {s m t : State} (h : RunsTwo a b s m t) {v : UnitId}
    (hva : v ≠ agentOf a) (hvb : v ≠ agentOf b) : ownState v t = ownState v s := by
  rw [(runAction_onlyUnit h.later).others v hvb, ownState_popEvent,
    (runAction_onlyUnit h.earlier).others v hva, ownState_popEvent]

/-- Both orders leave each unit with the same, and the same offers. -/
theorem RunsTwo.commute {a b : Action} {s m t : State} (hne : agentOf a ≠ agentOf b)
    (h : RunsTwo a b s m t) :
    ∃ m' t', RunsTwo b a s m' t' ∧ (∀ v, ownState v t' = ownState v t) ∧
      t'.env.offers = t.env.offers := by
  obtain ⟨m', t', h', ⟨hownA, hoffersA⟩, hownB, hoffersB⟩ := h.swap hne
  refine ⟨m', t', h', fun v => ?_, ?_⟩
  · by_cases hva : v = agentOf a
    · rw [hva, hownA, (runAction_onlyUnit h.later).others _ hne, ownState_popEvent]
    by_cases hvb : v = agentOf b
    · rw [hvb, (runAction_onlyUnit h'.later).others _ hne.symm, ownState_popEvent, hownB]
    rw [h'.others hvb hva, h.others hva hvb]
  · have hcomm := List.eraseP_comm (l := s.env.offers) fun c _ => not_namesUnit_of_ne hne c
    simp only [popEvent_env_offers] at hoffersA hoffersB
    rcases hoffersA with ⟨hm, ht'⟩ | ⟨hm, ht'⟩ <;> rcases hoffersB with ⟨ht, hm'⟩ | ⟨ht, hm'⟩ <;>
      rw [ht', hm', ht, hm]
    exact hcomm.symm

/-- Settles O46: each event does in either order what it does in the other. -/
theorem unitsAreIndependent : Obligations.UnitsAreIndependent := by
  intro s t a b hne h
  obtain ⟨m, hruns⟩ := run_two_iff.1 h
  obtain ⟨m', t', hruns', hown, hoffers⟩ := hruns.commute hne
  have hsenc := hown .senc
  have hsdec := hown .sdec
  have hfenc := hown .fenc
  have hfdec := hown .fdec
  simp only [ownState, OwnState.senc.injEq, OwnState.sdec.injEq, OwnState.fenc.injEq,
    OwnState.fdec.injEq] at hsenc hsdec hfenc hfdec
  obtain ⟨hs, hsink, hsunk, -⟩ := hsenc
  obtain ⟨hd, hsource, hcount⟩ := hsdec
  exact ⟨t', run_two_iff.2 ⟨m', hruns'⟩, hs, hd, hfenc, hfdec, hcount, hsource, hsunk, hsink,
    hoffers⟩

end Sys2Proof.Machine
end
